-- ==== Sys2Proof/Word.lean ====
section
/-! DEFINITION. The bit-vector types of the block, with the widths of R7 (00_scope.md). Every value is
unsigned and bit 0 is the least significant bit (R9). -/

namespace Sys2Proof

/-- A wire byte or a command byte (`BYTE_BITS`, R7). -/
abbrev Byte := BitVec 8

/-- A raw reading of an ADC unit (`SAMPLE_BITS`, R7). -/
abbrev Sample := BitVec 12

/-- A Tagged Sample Word (`WORD_BITS`, R7; layout R87). -/
abbrev TaggedWord := BitVec 16

/-- A conversion-complete event as the spec writes it: channel in bit 12, reading in bits 11:0 (R86). -/
abbrev EventWord := BitVec 13

end Sys2Proof
end

