-- ==== Sys2Proof/Syntax.lean ====
section
/-! DEFINITION. The input protocol (30_encoding.md, opcode_table.json) as syntax, and the steps of the four
agents (R12). -/

namespace Sys2Proof

/-- One of the two channels (R22). -/
inductive Chan where
  | A
  | B
deriving DecidableEq, Repr, Inhabited

/-- The one-bit encoding of a channel: `A = 0`, `B = 1` (R22). -/
def Chan.bit : Chan → BitVec 1
  | .A => 0#1
  | .B => 1#1

/-- The other channel. -/
def Chan.other : Chan → Chan
  | .A => .B
  | .B => .A

/-- The rows of opcode_table.json: seven commands and the default row (R82), and the two completion events
(R86). A completion carries its 12-bit reading. -/
inductive Instr where
  /-- `0x31` TEST_SPEED (R172). -/
  | testSpeed
  /-- `0x32` READ_ONCE (R173). -/
  | readOnce
  /-- `0x33` STREAM (R174). -/
  | stream
  /-- `0x34` STOP (R175). -/
  | stop
  /-- `0x35` READ_TEMP (R176). -/
  | readTemp
  /-- `0x36` READ_VCC (R177). -/
  | readVcc
  /-- `0x37` BURST (R178). -/
  | burst
  /-- IGNORE: any byte outside `0x31` to `0x37` (R179); `op` is that byte. -/
  | ignore (op : Byte)
  /-- CPL_A: channel A completed with reading `d` (R121). -/
  | cplA (d : Sample)
  /-- CPL_B: channel B completed with reading `d` (R121). -/
  | cplB (d : Sample)
deriving DecidableEq, Repr, Inhabited

/-- The completion of channel `c` with reading `d` as an instruction. -/
def Instr.cpl : Chan → Sample → Instr
  | .A, d => .cplA d
  | .B, d => .cplB d

/-- An event the engine can dispatch: a held command byte or a channel's completion (R200). -/
inductive Event where
  | cmd
  | cpl (c : Chan)
deriving DecidableEq, Repr, Inhabited

/-- One step of one agent (the table of R12), and the reset input (R231). -/
inductive Move where
  /-- Host receive side: a byte arrives (R170). -/
  | rxArrive (b : Byte)
  /-- ADC unit `c` finishes a conversion with result `d` (R113). -/
  | convert (c : Chan) (d : Sample)
  /-- Engine: dispatch a pending event (R121, R171, R204). -/
  | dispatch (e : Event)
  /-- Engine: hand the next byte of the job to the Transport (R157). -/
  | emit
  /-- Engine: end the job (R124, R145, R180). -/
  | finish
  /-- Outside: reset, in any state (R230, R231). -/
  | reset
deriving DecidableEq, Repr, Inhabited

end Sys2Proof
end

