-- ==== Sys2Proof/Config.lean ====
section
/-! DEFINITION. The parameters an implementation fixes (R4 to R6) and the values the spec leaves free. The
free values are opaque constants with no body: nothing can be proved of what they are. -/

namespace Sys2Proof

/-- The parameters of R4 to R6, constant for the life of the hardware (R45). The capacity is held as the
index of the buffer's last word, so that every value of this type satisfies `N >= 1` (R8; DESIGN CHOICE, log 1). -/
structure Config where
  /-- `N - 1`: the last word index of the burst buffer (R4, R63). -/
  lastIndex : Nat
  /-- `DUAL`: whether both channels are enabled (R5). -/
  dual : Bool
  /-- `VCC_WORD`: the constant that READ_VCC reports (R6). -/
  vccWord : BitVec 16
deriving DecidableEq, Repr, Inhabited

/-- `N`, the capacity of the burst buffer in Tagged Sample Words (R4). -/
def Config.capacity (cfg : Config) : Nat := cfg.lastIndex + 1

/-- The enabled set `E` (R5, R23), in the order the rules name its channels. -/
def Config.enabled (cfg : Config) : List Chan := if cfg.dual then [.A, .B] else [.A]

/-- The configuration with the given parameters; none where R8 refuses them (`N = 0`). -/
def Config.ofParams (n : Nat) (dual : Bool) (vccWord : BitVec 16) : Option Config :=
  match n with
  | 0 => none
  | k + 1 => some { lastIndex := k, dual := dual, vccWord := vccWord }

/-- `CW`, the width of the `cursor` register (R27, D34). -/
def Config.cursorWidth (cfg : Config) : Nat := Nat.clog 2 (cfg.capacity + 1)

/-- `IW`, the width of the `seq_idx` register (R37, D34). -/
def Config.indexWidth (cfg : Config) : Nat := Nat.clog 2 (max 512 (2 * cfg.capacity) + 1)

/-- The configuration this hardware was built with. The spec gives no value of `N`, `DUAL` or `VCC_WORD`
(I4 to I6), so none can be proved (log 1). -/
opaque Config.hardware : Config

/-- What word `i` of the burst buffer holds after the `k`-th reset (R46, I1: any value; DESIGN CHOICE,
log 8). -/
opaque Config.bufAtReset (k i : Nat) : TaggedWord

/-- What channel `c`'s result register holds after the `k`-th reset (R46, I2: any value; DESIGN
CHOICE, log 9). -/
opaque Config.dataAtReset (k : Nat) (c : Chan) : Sample

/-- The `k`-th move that nothing in State has settled: which agent moves, with which byte, reading or
pending event (R12, R204, I7, I8, I10: every choice is admitted; DESIGN CHOICE, log 2). -/
opaque Config.freeMove (k : Nat) : Move

end Sys2Proof
end

