-- ==== Sys2Proof/Machine/Fields.lean ====
section
/-! DEFINITION. The encodings of the Capture Mode register (R24, D3) and of the job kind (R36), with the
length of each job. A reserved encoding has no name here: reading one raises a fault (R25, R36). -/

namespace Sys2Proof.Machine

open Sys2Proof

/-- The three Capture Modes (R24). -/
inductive CaptureMode where
  | idle
  | cont
  | burst
deriving DecidableEq, Repr

/-- The 2-bit encoding of a mode (R24). -/
def CaptureMode.bits : CaptureMode → BitVec 2
  | .idle => 0b00#2
  | .cont => 0b01#2
  | .burst => 0b10#2

/-- The mode a register value stands for; none for the reserved `0b11` (R24, R25). -/
def modeOf (m : BitVec 2) : Option CaptureMode :=
  if m = 0b00#2 then some .idle
  else if m = 0b01#2 then some .cont
  else if m = 0b10#2 then some .burst
  else none

/-- The job kinds (R36). -/
inductive JobKind where
  /-- `NONE`: the engine is idle. -/
  | noJob
  /-- `CMD0`: a command with no output bytes. -/
  | cmd0
  /-- `CFRAME`: one continuous frame. -/
  | cframe
  /-- `SPEED`: the 512 bytes of TEST_SPEED. -/
  | speed
  /-- `VCC`: the frame of READ_VCC. -/
  | vcc
  /-- `DRAIN`: the whole burst buffer. -/
  | drain
deriving DecidableEq, Repr

/-- The 3-bit encoding of a job kind (R36). -/
def JobKind.bits : JobKind → BitVec 3
  | .noJob => 0b000#3
  | .cmd0 => 0b001#3
  | .cframe => 0b010#3
  | .speed => 0b011#3
  | .vcc => 0b100#3
  | .drain => 0b101#3

/-- The job kind a register value stands for; none for the reserved `0b110` and `0b111` (R36). -/
def jobOf (k : BitVec 3) : Option JobKind :=
  if k = 0b000#3 then some .noJob
  else if k = 0b001#3 then some .cmd0
  else if k = 0b010#3 then some .cframe
  else if k = 0b011#3 then some .speed
  else if k = 0b100#3 then some .vcc
  else if k = 0b101#3 then some .drain
  else none

/-- `len(kind)`, the number of bytes of a job (R36). `NONE` is no job and sends no byte
(DEDUCED, log 18). -/
def JobKind.len (cfg : Config) : JobKind → Nat
  | .noJob => 0
  | .cmd0 => 0
  | .cframe => 2
  | .speed => 512
  | .vcc => 2
  | .drain => 2 * cfg.capacity

/-- The command class of R36: the kinds whose `Finish` clears the inbound register (R180). -/
def JobKind.isCommand : JobKind → Bool
  | .cmd0 | .speed | .vcc => true
  | .noJob | .cframe | .drain => false

end Sys2Proof.Machine
end

