-- ==== Sys2Proof/Machine/Memory.lean ====
section
/-! DEFINITION. The burst buffer's storage (R50, R54): word-addressed, one 16-bit word per index, no byte
lanes. It is a list of (word index, word) pairs with the indices strictly rising. An index that is not listed
has not been written since reset; what it reads as then is `State.bufWord`'s to say (DESIGN CHOICE,
log 8). -/

namespace Sys2Proof.Machine

open Sys2Proof

/-- The written words of the burst buffer, by word index. -/
abbrev Memory := List (Nat × TaggedWord)

/-- The word last written at index `i`; none where nothing was written since reset. -/
def Memory.read : Memory → Nat → Option TaggedWord
  | [], _ => none
  | (j, w) :: m, i => if j = i then some w else Memory.read m i

/-- The memory after writing `v` at index `i`, with the indices kept in rising order. -/
def Memory.write : Memory → Nat → TaggedWord → Memory
  | [], i, v => [(i, v)]
  | (j, w) :: m, i, v =>
    if i < j then (i, v) :: (j, w) :: m
    else if i = j then (i, v) :: m
    else (j, w) :: Memory.write m i v

/-- The canonical form: indices strictly rising. Listing is itself the mark of a written word, so no entry
can equal what an unlisted index reads as. -/
def Memory.wf : Memory → Bool
  | [] => true
  | [_] => true
  | (i, _) :: (j, w) :: m => decide (i < j) && Memory.wf ((j, w) :: m)

end Sys2Proof.Machine
end

