-- ==== Sys2Proof/Machine/State.lean ====
section
/-! DEFINITION. The architectural state (10_state.md), as plain data, the reasons a step can stop, and the
state after reset (R46, R230). -/

namespace Sys2Proof.Machine

open Sys2Proof

/-- The model faults of R209. Each is a breach of the block's own invariants and no run from reset reaches
one (R47). A raised fault is a NEXT state with the reason recorded in `State.fault` (R11, R40): the step never
answers `Outcome.fault`, because environment steps stay enabled in a faulted state (R13). -/
inductive Fault where
  /-- A burst buffer index `>= N`. Raised by MemRead, MemWrite and APPEND (R51, R52, R141). Safe: it stands
  where the source has no behaviour. -/
  | overrun
  /-- ARM or DISARM of a channel outside `E` (R111, R112). Safe, as above. -/
  | disabledChannel
  /-- The reserved mode `0b11` was read (R25, R121). Safe, as above. -/
  | badMode
  /-- The reserved job kind `0b110` or `0b111` was read (R36, R156). Safe, as above. -/
  | badSeq
deriving DecidableEq, Repr

/-- The code of a recorded fault; `NONE` is code 0 (R209). -/
def Fault.code : Option Fault → Nat
  | none => 0
  | some .overrun => 1
  | some .disabledChannel => 2
  | some .badMode => 3
  | some .badSeq => 4

/-- Why an instruction or a configuration is given no meaning. -/
inductive Refusal where
  /-- An instruction of the table with no meaning in this model. Raised by nothing: every row has its
  meaning. Safe. -/
  | notModelled (mnemonic : String)
  /-- A configuration that breaks R4 to R8, refused before any step. Raised by `boot` only (R210). Safe. -/
  | badConfiguration
deriving DecidableEq, Repr

/-- The state of a channel's capture unit (R30), with no fourth code (DESIGN CHOICE, log 14). -/
inductive UnitState where
  /-- Disabled, no conversion requested. -/
  | off
  /-- Enabled, one conversion requested and not finished. -/
  | conv
  /-- Conversion finished, completion pending, result latched. -/
  | done
deriving DecidableEq, Repr

/-- One channel's capture unit, as the block tracks it (R30, R31). -/
structure ChanUnit where
  st : UnitState
  data : Sample
deriving DecidableEq, Repr

/-- Every piece of state of 10_state.md, and after it three fields of the model's own. -/
structure State where
  /-- The parameters `N`, `DUAL`, `VCC_WORD` (R45): no step writes them. -/
  cfg : Config
  /-- The Capture Mode register (R24). -/
  mode : BitVec 2
  /-- The write index of the burst buffer (R27), as the number it counts (DEDUCED, log 13). -/
  cursor : Nat
  /-- The burst buffer (R29). -/
  buf : Memory
  /-- Channel A's unit (R30, R31). -/
  chA : ChanUnit
  /-- Channel B's unit (R30, R31). -/
  chB : ChanUnit
  /-- `rx_full` of the inbound register (R33). -/
  rxFull : Bool
  /-- `rx_byte` of the inbound register (R33). -/
  rxByte : Byte
  /-- The kind of the running job (R35). -/
  seqKind : BitVec 3
  /-- The bytes of the running job already sent (R37), as the number it counts (DEDUCED, log 13). -/
  seqIdx : Nat
  /-- The channel of the sample a CFRAME job holds (R38). -/
  seqChan : Chan
  /-- The sample a CFRAME job holds (R39). -/
  seqSample : Sample
  /-- The sticky fault record; none is `NONE` (R40). -/
  fault : Option Fault
  /-- The bytes handed to the Transport, oldest first (R41). -/
  txlog : List Byte
  /-- MODEL: the moves the agents make next, oldest first (DESIGN CHOICE, log 2). -/
  script : List Move
  /-- MODEL: how many moves have been drawn from `Config.freeMove` (DESIGN CHOICE, log 2). -/
  draws : Nat
  /-- MODEL: how many resets have been applied, to index the unspecified values each one leaves
  (DESIGN CHOICE, log 8). -/
  resets : Nat
deriving DecidableEq, Repr

/-- The state right after a reset, over the given model fields: every field at its value of R46, the
unspecified ones at free values. -/
def State.afterReset (cfg : Config) (script : List Move) (draws resets : Nat) : State where
  cfg := cfg
  mode := CaptureMode.bits .idle
  cursor := 0
  buf := []
  chA := { st := .off, data := Config.dataAtReset resets .A }
  chB := { st := .off, data := Config.dataAtReset resets .B }
  rxFull := false
  rxByte := 0x00#8
  seqKind := JobKind.bits .noJob
  seqIdx := 0
  seqChan := .A
  seqSample := 0x000#12
  fault := none
  txlog := []
  script := script
  draws := draws
  resets := resets

/-- The machine right after reset (R46, R230), with the hardware's own parameters and no move settled. -/
def State.reset : State := State.afterReset Config.hardware [] 0 0

/-- Channel `c`'s unit: `ch[c]` (R11). -/
def State.ch (s : State) : Chan → ChanUnit
  | .A => s.chA
  | .B => s.chB

/-- The state with channel `c`'s unit replaced. -/
def State.setCh (s : State) (c : Chan) (u : ChanUnit) : State :=
  match c with
  | .A => { s with chA := u }
  | .B => { s with chB := u }

/-- The state with channel `c`'s unit state replaced: `ch[c].st <- st` (R11). -/
def State.setSt (s : State) (c : Chan) (st : UnitState) : State :=
  s.setCh c { s.ch c with st := st }

end Sys2Proof.Machine
end

