-- ==== Sys2Proof/Machine/Flags.lean ====
section
/-! DEFINITION. The status flags and derived conditions (R42): busy, full, pending, `status_on`, and when
each step of R12 is enabled. The block has no condition codes. -/

namespace Sys2Proof.Machine

open Sys2Proof

/-- `busy = (seq_kind != NONE)` (R49). -/
def State.busy (s : State) : Bool := s.seqKind != JobKind.bits .noJob

/-- No fault is recorded. Engine steps need this (R209). -/
def State.healthy (s : State) : Bool := s.fault.isNone

/-- The engine may dispatch: it runs no job and no fault is recorded (R204). -/
def State.ready (s : State) : Bool := !s.busy && s.healthy

/-- `full = (cursor = N)` (R142). -/
def State.full (s : State) : Bool := s.cursor == s.cfg.capacity

/-- `status_on = (mode != IDLE)`, the output to the Status Indicator (R44), computed and not stored (DEDUCED,
log 15). -/
def State.statusOn (s : State) : Bool := s.mode != CaptureMode.bits .idle

/-- Whether channel `c` is in the enabled set `E` (R23). -/
def State.isEnabled (s : State) (c : Chan) : Bool := s.cfg.enabled.contains c

/-- The held byte has been dispatched and its command's job is running (R33, R171). -/
def State.commandRunning (s : State) : Bool :=
  match jobOf s.seqKind with
  | some k => k.isCommand
  | none => false

/-- Whether an event is pending: latched and not yet dispatched (R201). -/
def State.pending (s : State) : Event → Bool
  | .cmd => s.rxFull && !s.commandRunning
  | .cpl c => (s.ch c).st == .done

/-- Whether a move is an enabled step (R113, R157, R170, R180, R124, R145, R204, R231). -/
def State.enables (s : State) : Move → Bool
  | .rxArrive _ => true
  | .convert c _ => (s.ch c).st == .conv
  | .dispatch e => s.ready && s.pending e
  | .emit =>
    s.healthy &&
      match jobOf s.seqKind with
      | some k => decide (s.seqIdx < k.len s.cfg)
      | none => false
  | .finish =>
    s.healthy && s.busy &&
      match jobOf s.seqKind with
      | some k => s.seqIdx == k.len s.cfg
      | none => false
  | .reset => true

end Sys2Proof.Machine
end

