-- ==== Sys2Proof/Machine/Operands.lean ====
section
/-! DEFINITION. Operand assembly (R92): tags, magnitudes, Tagged Sample Words and the three frames of the
framer (R150 to R154), and the host's reading of them (R159). All are pure functions (43_frame_encoder.md). -/

namespace Sys2Proof.Machine

open Sys2Proof

/-- TAG(c) (R150): `0b10` for A, `0b01` for B. -/
def tag : Chan → BitVec 2
  | .A => 0b10#2
  | .B => 0b01#2

/-- The magnitude of a sample: `zext_14(d) & 0x3FFF` (R92, R151). -/
def magnitude (d : Sample) : BitVec 14 := d.setWidth 14 &&& 0x3FFF#14

/-- TAGWORD(c, d) (R151): `TAG(c) ++ m`. -/
def tagWord (c : Chan) (d : Sample) : TaggedWord := tag c ++ magnitude d

/-- A two-byte frame, in wire order (R155). -/
structure Frame where
  first : Byte
  second : Byte
deriving DecidableEq, Repr

/-- The bytes of a frame in wire order. -/
def Frame.bytes (f : Frame) : List Byte := [f.first, f.second]

/-- `(b0, b1)[k]` (R156): `b0` for `k = 0`, `b1` for `k = 1`. -/
def Frame.byte (f : Frame) (k : Nat) : Byte := if k = 0 then f.first else f.second

/-- ENC_CONT(c, d) (R152, R88): `d[7:0]` first, then `TAG(c) ++ zext_14(d)[13:8]`. -/
def encCont (c : Chan) (d : Sample) : Frame where
  first := d.extractLsb' 0 8
  second := tag c ++ (d.setWidth 14).extractLsb' 8 6

/-- ENC_BURST(w) (R153, R89): the high byte first. -/
def encBurst (w : TaggedWord) : Frame where
  first := w.extractLsb' 8 8
  second := w.extractLsb' 0 8

/-- ENC_RAW(msb, lsb) (R154, R90): the low byte first. -/
def encRaw (msb lsb : Byte) : Frame where
  first := lsb
  second := msb

/-- The frame READ_VCC sends for the constant `v` (R91). -/
def vccFrame (v : BitVec 16) : Frame := encRaw (v.extractLsb' 8 8) (v.extractLsb' 0 8)

/-- Frame `i` of TEST_SPEED (R91): `msb = 0x00`, `lsb = trunc_8(i)`. -/
def speedFrame (i : Nat) : Frame := encRaw 0x00#8 (BitVec.ofNat 8 i)

/-- The channel a tag stands for, as the host reads it; none for the tags the block never produces
(R159, I17). -/
def chanOfTag (t : BitVec 2) : Option Chan :=
  if t = 0b10#2 then some .A else if t = 0b01#2 then some .B else none

/-- The host's reading of a continuous frame (R159). -/
def readContFrame (f : Frame) : Option (Chan × BitVec 14) :=
  match chanOfTag (f.second.extractLsb' 6 2) with
  | some c => some (c, f.second.extractLsb' 0 6 ++ f.first)
  | none => none

/-- The word of a drain frame: `(b0 << 8) | b1` (R159). -/
def drainFrameWord (f : Frame) : TaggedWord := f.first ++ f.second

/-- The host's reading of a drain frame (R159). -/
def readDrainFrame (f : Frame) : Option (Chan × BitVec 14) :=
  match chanOfTag ((drainFrameWord f).extractLsb' 14 2) with
  | some c => some (c, (drainFrameWord f).extractLsb' 0 14)
  | none => none

end Sys2Proof.Machine
end

