-- ==== Sys2Proof/Machine/Ops.lean ====
section
/-! DEFINITION. The named operations of the spec's pseudocode (R11): raising a fault, reading and writing the
burst buffer, the channel operations, the buffer controller's operations, and starting and ending a job. -/

namespace Sys2Proof.Machine

open Sys2Proof

/-- How a piece of pseudocode ends: with a value and a state, or with a raised fault, which ends the whole
step (R11). The state of a raised fault has the reason recorded. -/
inductive Res (α : Type) where
  | ok (a : α) (s : State)
  | raised (s : State)
deriving DecidableEq, Repr

/-- Pseudocode in sequence: what follows a raised fault is not run (R205: at most one fault, the first). -/
def Res.bind {α β : Type} (r : Res α) (f : α → State → Res β) : Res β :=
  match r with
  | .ok a s => f a s
  | .raised s => .raised s

/-- The state a piece of pseudocode leaves. -/
def Res.state {α : Type} : Res α → State
  | .ok _ s => s
  | .raised s => s

/-- A step's answer: always a next state, a raised fault being recorded in it (R11, R13). -/
def Res.answer (r : Res Unit) : Host.Outcome State Fault Refusal := .next r.state

/-- `raise Fault(reason)` (R11, R40): record the reason. What the pseudocode wrote before it stands
(DEDUCED, log 5). -/
def raise {α : Type} (f : Fault) (s : State) : Res α := .raised { s with fault := some f }

/-- What word `i` of the burst buffer holds: the word last written there, or the unspecified value reset left
(R29, R46, R53). -/
def State.bufWord (s : State) (i : Nat) : TaggedWord :=
  match Memory.read s.buf i with
  | some w => w
  | none => Config.bufAtReset s.resets i

/-- MemRead(i, 1) (R51). -/
def memRead (i : Nat) (s : State) : Res TaggedWord :=
  if i ≥ s.cfg.capacity then raise .overrun s else .ok (s.bufWord i) s

/-- MemWrite(i, 1, v) (R52). -/
def memWrite (i : Nat) (v : TaggedWord) (s : State) : Res Unit :=
  if i ≥ s.cfg.capacity then raise .overrun s else .ok () { s with buf := Memory.write s.buf i v }

/-- Send(b) (R11, R157): the byte joins the transmit log. -/
def send (b : Byte) (s : State) : State := { s with txlog := s.txlog ++ [b] }

/-- ARM(c) (R111): any earlier conversion or latched completion is abandoned; the data is left as it was.
The calls behind it are the collaborator's (log 19). -/
def arm (c : Chan) (s : State) : Res Unit :=
  if s.isEnabled c then .ok () (s.setSt c .conv) else raise .disabledChannel s

/-- DISARM(c) (R112). -/
def disarm (c : Chan) (s : State) : Res Unit :=
  if s.isEnabled c then .ok () (s.setSt c .off) else raise .disabledChannel s

/-- An operation on each channel of a list, in turn (`for c in E`). -/
def forEach (op : Chan → State → Res Unit) : List Chan → State → Res Unit
  | [], s => .ok () s
  | c :: cs, s => (op c s).bind fun _ s' => forEach op cs s'

/-- `for c in E: ARM(c)` (R174, R178). -/
def armAll (s : State) : Res Unit := forEach arm s.cfg.enabled s

/-- `for c in E: DISARM(c)` (R175). -/
def disarmAll (s : State) : Res Unit := forEach disarm s.cfg.enabled s

/-- onComplete(c) (R114): the latched sample, and the state with the unit disabled and nothing pending. -/
def onComplete (c : Chan) (s : State) : Sample × State := ((s.ch c).data, s.setSt c .off)

/-- `S.mode <- m`. -/
def setMode (m : CaptureMode) (s : State) : State := { s with mode := m.bits }

/-- Start a job: `S.seq_kind <- k; S.seq_idx <- 0` (R36, R37). -/
def startJob (k : JobKind) (s : State) : State := { s with seqKind := k.bits, seqIdx := 0 }

/-- End a job: `S.seq_kind <- NONE; S.seq_idx <- 0` (R124, R145, R180). -/
def endJob (s : State) : State := { s with seqKind := JobKind.bits .noJob, seqIdx := 0 }

/-- Clear the inbound register (R180). -/
def clearInbound (s : State) : State := { s with rxByte := 0x00#8, rxFull := false }

/-- RESET() of the burst buffer (R140): the cursor only. -/
def resetCursor (s : State) : State := { s with cursor := 0 }

/-- APPEND(w) -> full (R141). -/
def append (w : TaggedWord) (s : State) : Res Bool :=
  if s.cursor ≥ s.cfg.capacity then raise .overrun s
  else (memWrite s.cursor w s).bind fun _ s' =>
    let s'' := { s' with cursor := s'.cursor + 1 }
    .ok s''.full s''

/-- DRAIN_START() (R143). -/
def drainStart (s : State) : State := startJob .drain s

end Sys2Proof.Machine
end

