-- ==== Sys2Proof/Machine/Command.lean ====
section
/-! DEFINITION. The commands (R172 to R179): the body of Dispatch(CMD) (R171) for each row, which ends with
`S.seq_idx <- 0`. The inbound register stays as it is until the job's Finish (R180). No meaning reads the mode
(D6). -/

namespace Sys2Proof.Machine

open Sys2Proof

/-- TEST_SPEED (R172): only the job starts. -/
def execTestSpeed (s : State) : Host.Outcome State Fault Refusal := .next (startJob .speed s)

/-- READ_ONCE (R173): reserved, no operation. -/
def execReadOnce (s : State) : Host.Outcome State Fault Refusal := .next (startJob .cmd0 s)

/-- STREAM (R174): arm every channel of `E`, then mode CONT. -/
def execStream (s : State) : Host.Outcome State Fault Refusal :=
  ((armAll s).bind fun _ s' => .ok () (startJob .cmd0 (setMode .cont s'))).answer

/-- STOP (R175): disarm every channel of `E`, then mode IDLE. The cursor and the buffer are kept (R146). -/
def execStop (s : State) : Host.Outcome State Fault Refusal :=
  ((disarmAll s).bind fun _ s' => .ok () (startJob .cmd0 (setMode .idle s'))).answer

/-- READ_TEMP (R176): reserved, no operation. -/
def execReadTemp (s : State) : Host.Outcome State Fault Refusal := .next (startJob .cmd0 s)

/-- READ_VCC (R177): only the job starts. -/
def execReadVcc (s : State) : Host.Outcome State Fault Refusal := .next (startJob .vcc s)

/-- BURST (R178): reset the cursor, mode BURST, arm every channel of `E`. -/
def execBurst (s : State) : Host.Outcome State Fault Refusal :=
  ((armAll (setMode .burst (resetCursor s))).bind fun _ s' => .ok () (startJob .cmd0 s')).answer

/-- IGNORE (R179): no operation, whatever the byte. -/
def execIgnore (_op : Byte) (s : State) : Host.Outcome State Fault Refusal := .next (startJob .cmd0 s)

end Sys2Proof.Machine
end

