-- ==== Sys2Proof/Machine/Completion.lean ====
section
/-! DEFINITION. The sample-routing multiplexer: the handling of one completion (R121 to R126), the meanings of
CPL_A and CPL_B. -/

namespace Sys2Proof.Machine

open Sys2Proof

/-- CPL_IDLE(c, d) (R122): the sample is discarded and `c` is not re-armed. -/
def cplIdle (_c : Chan) (_d : Sample) (s : State) : Res Unit := .ok () s

/-- CPL_CONT(c, d) (R123): start the frame's job. -/
def cplCont (c : Chan) (d : Sample) (s : State) : Res Unit :=
  .ok () (startJob .cframe { s with seqSample := d, seqChan := c })

/-- BURST_FULL() (R126): back to Idle, no re-arming, start the drain. -/
def burstFull (s : State) : State := drainStart (setMode .idle s)

/-- CPL_BURST(c, d) (R125, R126): store the tagged word, then re-arm or drain. -/
def cplBurst (c : Chan) (d : Sample) (s : State) : Res Unit :=
  (append (tagWord c d) s).bind fun full s' => if full then .ok () (burstFull s') else arm c s'

/-- The multiplexer: route sample `d` of channel `c` by mode (R121, R128). -/
def routeSample (c : Chan) (d : Sample) (s : State) : Res Unit :=
  match modeOf s.mode with
  | some .idle => cplIdle c d s
  | some .cont => cplCont c d s
  | some .burst => cplBurst c d s
  | none => raise .badMode s

/-- The body of Dispatch(CPL(c)) (R121): onComplete, then the multiplexer. The mode is read after onComplete,
in the same step. `d` is the reading onComplete takes. -/
def handleCompletion (c : Chan) (d : Sample) (s : State) : Res Unit := routeSample c d (onComplete c s).2

/-- CPL_A (R121). -/
def execCplA (d : Sample) (s : State) : Host.Outcome State Fault Refusal := (handleCompletion .A d s).answer

/-- CPL_B (R121). -/
def execCplB (d : Sample) (s : State) : Host.Outcome State Fault Refusal := (handleCompletion .B d s).answer

end Sys2Proof.Machine
end

