-- ==== Sys2Proof/Machine/Dispatch.lean ====
section
/-! DEFINITION. The meaning of an instruction: the body of its Dispatch step (R121, R171), without
the arbiter's condition (DESIGN CHOICE, log 11). -/

namespace Sys2Proof.Machine

open Sys2Proof

-- One arm per row of opcode_table.json.
def exec (i : Instr) (s : State) : Host.Outcome State Fault Refusal :=
  match i with
  | .testSpeed => Sys2Proof.Machine.execTestSpeed s
  | .readOnce => Sys2Proof.Machine.execReadOnce s
  | .stream => Sys2Proof.Machine.execStream s
  | .stop => Sys2Proof.Machine.execStop s
  | .readTemp => Sys2Proof.Machine.execReadTemp s
  | .readVcc => Sys2Proof.Machine.execReadVcc s
  | .burst => Sys2Proof.Machine.execBurst s
  | .ignore op => Sys2Proof.Machine.execIgnore op s
  | .cplA d => Sys2Proof.Machine.execCplA d s
  | .cplB d => Sys2Proof.Machine.execCplB d s

end Sys2Proof.Machine
end

