-- ==== Sys2Proof/Machine/Engine.lean ====
section
/-! DEFINITION. What the engine does with a job after its Dispatch: Emit (R156, R157) and Finish (R124, R145,
R180). A move that is not an enabled step changes nothing here. -/

namespace Sys2Proof.Machine

open Sys2Proof

/-- BYTE(kind, k) (R156), and none for the kinds it is never asked for (log 18). -/
def jobByte (kind : JobKind) (k : Nat) (s : State) : Option (Res Byte) :=
  match kind with
  | .cframe => some (.ok ((encCont s.seqChan s.seqSample).byte k) s)
  | .speed => some (.ok ((speedFrame (k / 2)).byte (k % 2)) s)
  | .vcc => some (.ok ((vccFrame s.cfg.vccWord).byte k) s)
  | .drain => some ((memRead (k / 2) s).bind fun w s' => .ok ((encBurst w).byte (k % 2)) s')
  | .cmd0 => none
  | .noJob => none

/-- The rest of Emit once its byte is known (R157): send it and count it. -/
def emitByte (b : Byte) (s : State) : Res Unit := .ok () { send b s with seqIdx := s.seqIdx + 1 }

/-- Emit for a job of kind `kind` (R157): enabled while `seq_idx < len(kind)`. -/
def emitJob (kind : JobKind) (s : State) : State :=
  if s.seqIdx < kind.len s.cfg then
    match jobByte kind s.seqIdx s with
    | some r => (r.bind emitByte).state
    | none => s
  else s

/-- Emit (R157). Reading a reserved job kind raises BAD_SEQ (R36, R156; DEDUCED, log 7). -/
def emit (s : State) : State :=
  if s.healthy then
    match jobOf s.seqKind with
    | some kind => emitJob kind s
    | none => (raise (α := Unit) .badSeq s).state
  else s

/-- Finish of a command-class job (R180): the clear is unconditional. -/
def finishCommand (s : State) : Res Unit := .ok () (endJob (clearInbound s))

/-- Finish of a CFRAME job (R124): re-arm if still streaming. Reading the reserved mode raises BAD_MODE
(R25; DEDUCED, log 6). -/
def finishFrame (s : State) : Res Unit :=
  match modeOf s.mode with
  | some .idle => .ok () (endJob s)
  | some .cont => (arm s.seqChan s).bind fun _ s' => .ok () (endJob s')
  | some .burst => (arm s.seqChan s).bind fun _ s' => .ok () (endJob s')
  | none => raise .badMode s

/-- Finish of a DRAIN job (R145): cursor, mode, channels and inbound register stay. -/
def finishDrain (s : State) : Res Unit := .ok () (endJob s)

/-- The post-action of a job's kind (R36). `NONE` has none. -/
def finishJob (kind : JobKind) (s : State) : Res Unit :=
  match kind with
  | .cmd0 => finishCommand s
  | .speed => finishCommand s
  | .vcc => finishCommand s
  | .cframe => finishFrame s
  | .drain => finishDrain s
  | .noJob => .ok () s

/-- Finish (R124, R145, R180): enabled once `seq_idx = len(kind)`. -/
def finish (s : State) : State :=
  if s.healthy then
    match jobOf s.seqKind with
    | some kind => if s.seqIdx = kind.len s.cfg then (finishJob kind s).state else s
    | none => s
  else s

end Sys2Proof.Machine
end

