-- ==== Sys2Proof/Machine/Environment.lean ====
section
/-! DEFINITION. The steps that come from outside the engine: a received byte (R170), a finished conversion
(R113), reset (R230, R231), and boot with given parameters (R210, R232). -/

namespace Sys2Proof.Machine

open Sys2Proof

/-- RxArrive(b) (R170): always enabled; any byte already held is overwritten. -/
def rxArrive (b : Byte) (s : State) : State := { s with rxByte := b, rxFull := true }

/-- Convert(c, d) (R113): enabled exactly while channel `c` is converting, also in a faulted state. -/
def convert (c : Chan) (d : Sample) (s : State) : State :=
  if (s.ch c).st = .conv then s.setCh c { st := .done, data := d } else s

/-- Reset in any state (R231): the parameters stay; the unspecified values are fresh ones
(DEDUCED, log 10). -/
def applyReset (s : State) : State := State.afterReset s.cfg s.script s.draws (s.resets + 1)

/-- Boot with the given parameters (R232): the reset state, or a refusal before any step (R8, R210). -/
def boot (n : Nat) (dual : Bool) (vccWord : BitVec 16) : Host.Outcome State Fault Refusal :=
  match Config.ofParams n dual vccWord with
  | some cfg => .next (State.afterReset cfg [] 0 0)
  | none => .refused .badConfiguration

end Sys2Proof.Machine
end

