-- ==== Sys2Proof/WellFormed.lean ====
section
/-! DEFINITION. When a term of `Instr` stands for words of the protocol. -/

namespace Sys2Proof

/-- The seven defined command codes (R82). -/
def commandCodes : List Byte := [0x31#8, 0x32#8, 0x33#8, 0x34#8, 0x35#8, 0x36#8, 0x37#8]

/-- Every term is well formed but an IGNORE that carries a defined command code (R83: each byte value
selects exactly one row). -/
def Instr.wellFormed : Instr → Bool
  | .ignore op => !commandCodes.contains op
  | .testSpeed | .readOnce | .stream | .stop | .readTemp | .readVcc | .burst | .cplA _ | .cplB _ => true

end Sys2Proof
end

