-- ==== Sys2Proof/Decode.lean ====
section
/-! DEFINITION. The decoder (R80 to R86) and, after it, the encoder. Decoding reads no state (R83). -/

namespace Sys2Proof

/-- The two input formats (R80). -/
inductive Format where
  | cmd8
  | evt13
deriving DecidableEq, Repr

/-- One input as the block receives it: a command byte (R81) or a completion event (R86). -/
inductive Raw where
  | cmd8 (op : Byte)
  | evt (w : EventWord)
deriving DecidableEq, Repr

/-- Why a list of bytes is no input of a format. -/
inductive DecodeError where
  /-- A command is exactly one byte (R81, R85). -/
  | commandNotOneByte
  /-- An event word is written as exactly two bytes. -/
  | eventNotTwoBytes
  /-- An event word has 13 bits (R86): the three bits above them are 0. -/
  | eventBitsAbove12
deriving DecidableEq, Repr

/-- The command opcode map (R82). It compares all 8 bits and is total (R83). -/
def decodeCommand (op : Byte) : Instr :=
  if op = 0x31#8 then .testSpeed
  else if op = 0x32#8 then .readOnce
  else if op = 0x33#8 then .stream
  else if op = 0x34#8 then .stop
  else if op = 0x35#8 then .readTemp
  else if op = 0x36#8 then .readVcc
  else if op = 0x37#8 then .burst
  else .ignore op

/-- The channel field of an event word, bit 12 (R86). -/
def eventChan (w : EventWord) : Chan := if w.extractLsb' 12 1 = 0#1 then .A else .B

/-- The reading field of an event word, bits 11:0 (R86). -/
def eventSample (w : EventWord) : Sample := w.extractLsb' 0 12

/-- The event word `(c << 12) | d` (R86). -/
def eventWord (c : Chan) (d : Sample) : EventWord := c.bit ++ d

/-- CPL_A and CPL_B (R86). -/
def decodeEvent (w : EventWord) : Instr := Instr.cpl (eventChan w) (eventSample w)

/-- The decoder: total on every input of the block. -/
def decode : Raw → Instr
  | .cmd8 op => decodeCommand op
  | .evt w => decodeEvent w

/-- The input that a list of bytes stands for. An event word stands in two bytes, the low byte first (the
numbering of opcode_table.json; no bus carries it, R86; DESIGN CHOICE, log 12). -/
def rawOfBytes : Format → List Byte → Except DecodeError Raw
  | .cmd8, [op] => .ok (.cmd8 op)
  | .cmd8, _ => .error .commandNotOneByte
  | .evt13, [lo, hi] =>
    if hi.extractLsb' 5 3 = 0#3 then .ok (.evt (hi.extractLsb' 0 5 ++ lo)) else .error .eventBitsAbove12
  | .evt13, _ => .error .eventNotTwoBytes

/-- The decoder on bytes: total, and a list that is no input is rejected by name. -/
def decodeBytes (f : Format) (bs : List Byte) : Except DecodeError Instr :=
  match rawOfBytes f bs with
  | .ok r => .ok (decode r)
  | .error e => .error e

/-- The format of an instruction's words (opcode_table.json). -/
def Instr.format : Instr → Format
  | .cplA _ | .cplB _ => .evt13
  | .testSpeed | .readOnce | .stream | .stop | .readTemp | .readVcc | .burst | .ignore _ => .cmd8

/-- The two bytes of an event word, the low byte first. -/
def eventBytes (w : EventWord) : List Byte := [w.extractLsb' 0 8, 0#3 ++ w.extractLsb' 8 5]

/-- The words of a well-formed instruction, from R82 and R86. -/
def encode : Instr → List Byte
  | .testSpeed => [0x31#8]
  | .readOnce => [0x32#8]
  | .stream => [0x33#8]
  | .stop => [0x34#8]
  | .readTemp => [0x35#8]
  | .readVcc => [0x36#8]
  | .burst => [0x37#8]
  | .ignore op => [op]
  | .cplA d => eventBytes (eventWord .A d)
  | .cplB d => eventBytes (eventWord .B d)

/-- The bytes of a row's words with bits `w` (opcode_table.json numbers bit 0 as the least significant bit
of the first byte): one byte for a CMD8 row, two for an EVT13 row. -/
def tableBytes (nbits w : Nat) : Format × List Byte :=
  if nbits ≤ 8 then (.cmd8, [BitVec.ofNat 8 w]) else (.evt13, [BitVec.ofNat 8 w, BitVec.ofNat 8 (w / 256)])

/-- How many bits the bytes of `tableBytes` hold. -/
def tableWidth (nbits : Nat) : Nat := if nbits ≤ 8 then 8 else 16

/-- What the decoder reads from an instruction whose bits are `w`; none where it refuses. -/
def decodeTableWord (nbits w : Nat) : Option Instr :=
  if w < 2 ^ tableWidth nbits then
    match decodeBytes (tableBytes nbits w).1 (tableBytes nbits w).2 with
    | .ok i => some i
    | .error _ => none
  else none

end Sys2Proof
end

