-- ==== Sys2Proof/Machine/Fetch.lean ====
section
/-! DEFINITION. Where the engine's next input comes from: which move is made next, what a Dispatch of an event
reads (R114, R171), and how a row's words are placed for the next Dispatch to read. -/

namespace Sys2Proof.Machine

open Sys2Proof

/-- The move made next: the script's oldest, or a free one where the script has run out (R12, R204). -/
def State.nextMove (s : State) : Move :=
  match s.script with
  | m :: _ => m
  | [] => Config.freeMove s.draws

/-- The state with that move taken off. -/
def State.takeMove (s : State) : State :=
  match s.script with
  | _ :: ms => { s with script := ms }
  | [] => { s with draws := s.draws + 1 }

/-- What a Dispatch of event `e` reads; none where it is not enabled (R204). A command byte comes from the
inbound register (R171), a completion from its channel's latch (R114). -/
def fetch (e : Event) (s : State) : Option Raw :=
  if s.enables (.dispatch e) then
    match e with
    | .cmd => some (.cmd8 s.rxByte)
    | .cpl c => some (.evt (eventWord c (onComplete c s).1))
  else none

/-- The state with the engine idle, no fault recorded, and a Dispatch of `e` as the move made next. -/
def selectDispatch (e : Event) (s : State) : State :=
  { s with seqKind := JobKind.bits .noJob, fault := none, script := .dispatch e :: s.script }

/-- An input placed where the next Dispatch reads it: a command byte in the inbound register (R170), an event in
its channel's latch (R113). -/
def placeRaw (r : Raw) (s : State) : State :=
  match r with
  | .cmd8 op => selectDispatch .cmd (rxArrive op s)
  | .evt w => selectDispatch (.cpl (eventChan w)) (s.setCh (eventChan w) { st := .done, data := eventSample w })

/-- A row's words, as bits of a number, placed for the next Dispatch. Words that are no input place nothing. -/
def placeTableWord (nbits w : Nat) (s : State) : State :=
  match rawOfBytes (tableBytes nbits w).1 (tableBytes nbits w).2 with
  | .ok r => placeRaw r s
  | .error _ => s

end Sys2Proof.Machine
end

