-- ==== Sys2Proof/Machine/Step.lean ====
section
/-! DEFINITION. One step of the machine: the next move of one agent (R12). A move that is not an enabled step
is passed over (DESIGN CHOICE, log 4). -/

namespace Sys2Proof.Machine

open Sys2Proof

/-- A Dispatch of event `e`: fetch, decode, run; nothing where it is not enabled (R121, R171, R204). -/
def dispatch (e : Event) (s : State) : Host.Outcome State Fault Refusal :=
  match fetch e s with
  | some r => exec (decode r) s
  | none => .next s

/-- One move of one agent. -/
def act (m : Move) (s : State) : Host.Outcome State Fault Refusal :=
  match m with
  | .rxArrive b => .next (rxArrive b s)
  | .convert c d => .next (convert c d s)
  | .dispatch e => dispatch e s
  | .emit => .next (emit s)
  | .finish => .next (finish s)
  | .reset => .next (applyReset s)

/-- One step: the move made next, from the state with that move taken off. -/
def step (s : State) : Host.Outcome State Fault Refusal := act s.nextMove s.takeMove

/-- `s` with a row's words placed for the next step to dispatch (DESIGN CHOICE, log 3). -/
def State.withFetchWord (s : State) (nbits w : Nat) : State := placeTableWord nbits w s

end Sys2Proof.Machine
end

