-- ==== Sys2Proof/Machine/Trace.lean ====
section
/-! DEFINITION. Runs as sequences of moves (R12): the state after a move, after a list of moves, and along an
infinite sequence of them. -/

namespace Sys2Proof.Machine

open Sys2Proof

/-- The state after a move. -/
def stateAfter (m : Move) (s : State) : State :=
  match act m s with
  | .next t => t
  | .fault _ => s
  | .refused _ => s

/-- The state after a list of moves. -/
def runMoves : List Move → State → State
  | [], s => s
  | m :: ms, s => runMoves ms (stateAfter m s)

/-- The engine's moves that send the `n` bytes of a job and end it (R157, R207). -/
def jobMoves (n : Nat) : List Move := List.replicate n .emit ++ [.finish]

/-- The moves that complete and dispatch the given readings in turn (R127: in the order of the Dispatch
steps). -/
def sampleMoves : List (Chan × Sample) → List Move
  | [] => []
  | (c, d) :: es => .convert c d :: .dispatch (.cpl c) :: sampleMoves es

/-- The states along an infinite sequence of moves. -/
def traceOf (moves : Nat → Move) (s : State) : Nat → State
  | 0 => s
  | k + 1 => stateAfter (moves k) (traceOf moves s k)

end Sys2Proof.Machine
end

