-- ==== Sys2Proof/Machine/Stimulus.lean ====
section
/-! DEFINITION. The spec's own way of writing stimuli for the block (R93, R94): one line per step or per run of
steps, and the moves each line stands for. -/

namespace Sys2Proof.Machine

open Sys2Proof

/-- A line of R93. -/
inductive Line where
  /-- `RX b`. -/
  | rx (b : Byte)
  /-- `CV c, d`. -/
  | cv (c : Chan) (d : Sample)
  /-- `DISPATCH CMD`, `DISPATCH CPL c`. -/
  | dispatch (e : Event)
  /-- `EMIT*k`; `EMIT` is `k = 1`. -/
  | emit (k : Nat)
  /-- `FINISH`. -/
  | finish
  /-- `RUN`, with the order the program lists for its pending events. -/
  | run (order : List Event)
deriving DecidableEq, Repr

/-- The mnemonic form `RX STREAM`: a command's mnemonic stands for its byte (R93). A completion has no such
form. -/
def Line.rxCommand (i : Instr) : Option Line :=
  match i.format, encode i with
  | .cmd8, [b] => some (.rx b)
  | _, _ => none

/-- An event word stands for a `CV` line (R93). -/
def Line.ofEventWord (w : EventWord) : Line := .cv (eventChan w) (eventSample w)

/-- The events RUN tries, in turn: those the program lists, then the others in a fixed order (DESIGN CHOICE,
log 17). -/
def runOrder (order : List Event) : List Event := order ++ [.cmd, .cpl .A, .cpl .B]

/-- The engine step RUN takes next; none where no engine step is enabled. -/
def nextEngineMove (order : List Event) (s : State) : Option Move :=
  if s.enables .emit then some .emit
  else if s.enables .finish then some .finish
  else
    match (runOrder order).find? fun e => s.enables (.dispatch e) with
    | some e => some (.dispatch e)
    | none => none

/-- The engine steps RUN takes from a state, at most `fuel` of them; no environment step is among them. -/
def engineMoves : Nat → List Event → State → List Move
  | 0, _, _ => []
  | fuel + 1, order, s =>
    match nextEngineMove order s with
    | some m => m :: engineMoves fuel order (stateAfter m s)
    | none => []

/-- Enough steps for RUN: the running job and the three events that can be pending, each at most a Dispatch,
the bytes of the longest job and a Finish (R36, R117; DESIGN CHOICE, log 17). -/
def runFuel (cfg : Config) : Nat := 4 * (max 512 (2 * cfg.capacity) + 2)

/-- The moves a line stands for, from a state. -/
def Line.moves (l : Line) (s : State) : List Move :=
  match l with
  | .rx b => [.rxArrive b]
  | .cv c d => [.convert c d]
  | .dispatch e => [.dispatch e]
  | .emit k => List.replicate k .emit
  | .finish => [.finish]
  | .run order => engineMoves (runFuel s.cfg) order s

/-- The moves a list of lines stands for, from a state. -/
def linesMoves : List Line → State → List Move
  | [], _ => []
  | l :: ls, s => l.moves s ++ linesMoves ls (runMoves (l.moves s) s)

end Sys2Proof.Machine
end

