-- ==== Sys2Proof/Safety.lean ====
section
/-! DEFINITION. What counts as a safe state (R47), which states the outside cannot tell apart (R43, R147, I1,
I2), and the fairness that claims about progress may assume (R218). -/

namespace Sys2Proof

open Sys2Proof.Machine

/-- The invariants of R47, with what makes them inductive: a continuous frame's job runs only in Continuous
mode and holds an enabled channel, a drain runs only in Idle with the buffer full, and every word below the
cursor has been written since reset (R147). -/
structure CoreInv (s : State) : Prop where
  /-- R47 item 1. -/
  cursor_le : s.cursor ≤ s.cfg.capacity
  /-- R47 item 2. -/
  burst_room : s.mode = CaptureMode.bits .burst → s.cursor < s.cfg.capacity
  /-- R47 item 3. -/
  mode_legal : s.mode ≠ 0b11#2
  /-- R47 item 3. -/
  kind_legal : s.seqKind ≠ 0b110#3 ∧ s.seqKind ≠ 0b111#3
  /-- R47 item 4, R115. -/
  disabled_off : ∀ c, c ∉ s.cfg.enabled → (s.ch c).st = .off
  /-- R47 item 5; and 0 while no job runs. -/
  index_le : ∀ k, jobOf s.seqKind = some k → s.seqIdx ≤ k.len s.cfg
  /-- R47 item 6. -/
  burst_armed : s.mode = CaptureMode.bits .burst → ∀ c ∈ s.cfg.enabled, (s.ch c).st ≠ .off
  /-- R47 item 7. -/
  cont_armed : s.mode = CaptureMode.bits .cont → ∀ c ∈ s.cfg.enabled,
    (s.ch c).st ≠ .off ∨ (s.seqKind = JobKind.bits .cframe ∧ s.seqChan = c)
  /-- A frame's job runs in Continuous mode only (R124). -/
  frame_mode : s.seqKind = JobKind.bits .cframe → s.mode = CaptureMode.bits .cont
  /-- A frame's job holds an enabled channel, which is off until the job's Finish (R123). -/
  frame_chan : s.seqKind = JobKind.bits .cframe →
    s.seqChan ∈ s.cfg.enabled ∧ (s.ch s.seqChan).st = .off
  /-- A drain runs in Idle with the buffer full (R126, R143). -/
  drain_full : s.seqKind = JobKind.bits .drain →
    s.mode = CaptureMode.bits .idle ∧ s.cursor = s.cfg.capacity
  /-- The buffer keeps its canonical form. -/
  buf_wf : Memory.wf s.buf = true
  /-- Only word indices below `N` are written (R52, R63). -/
  buf_range : ∀ i, s.cfg.capacity ≤ i → Memory.read s.buf i = none
  /-- Every word below the cursor has been written (R147). -/
  buf_written : ∀ i, i < s.cursor → Memory.read s.buf i ≠ none
  /-- No fault has been raised (R209: none can occur in a run from reset). -/
  no_fault : s.fault = none

/-- Two units that nothing can tell apart: a reading counts only while it is pending (R31). -/
def SameUnit (u v : ChanUnit) : Prop := u.st = v.st ∧ (u.st = .done → u.data = v.data)

/-- Two states that differ at most in what is hidden: buffer words at or above the cursor, readings of
channels with no completion pending, and how often reset was applied (R43, R147, I1 to I3). -/
structure SameVisible (s t : State) : Prop where
  cfg : s.cfg = t.cfg
  mode : s.mode = t.mode
  cursor : s.cursor = t.cursor
  words : ∀ i, i < s.cursor → Memory.read s.buf i = Memory.read t.buf i
  chA : SameUnit s.chA t.chA
  chB : SameUnit s.chB t.chB
  rxFull : s.rxFull = t.rxFull
  rxByte : s.rxByte = t.rxByte
  seqKind : s.seqKind = t.seqKind
  seqIdx : s.seqIdx = t.seqIdx
  seqChan : s.seqChan = t.seqChan
  seqSample : s.seqSample = t.seqSample
  fault : s.fault = t.fault
  txlog : s.txlog = t.txlog
  script : s.script = t.script
  draws : s.draws = t.draws

/-- What the outside world sees (R14): the bytes sent, and the arm and disarm requests, visible as the channels'
unit states. -/
structure Observation where
  sent : List Byte
  unitA : UnitState
  unitB : UnitState
deriving DecidableEq, Repr

/-- The observation of a state (R14). -/
def observe (s : State) : Observation := { sent := s.txlog, unitA := s.chA.st, unitB := s.chB.st }

/-- The engine's moves (R12). -/
def Move.isEngine : Move → Bool
  | .dispatch _ | .emit | .finish => true
  | .rxArrive _ | .convert _ _ | .reset => false

/-- Weak fairness of a sequence of moves from a state (R218): F1 for each engine step, F2 for the conversion of
an armed channel. F3: nothing is asked of the host (DEDUCED, log 16). -/
structure WeaklyFair (moves : Nat → Move) (s : State) : Prop where
  engine : ∀ m, Move.isEngine m = true → ∀ k,
    (∀ j, k ≤ j → (traceOf moves s j).enables m = true) → ∃ j, k ≤ j ∧ moves j = m
  units : ∀ c k, (∀ j, k ≤ j → ((traceOf moves s j).ch c).st = .conv) → ∃ j d, k ≤ j ∧ moves j = .convert c d

end Sys2Proof
end

