-- ==== Sys2Proof/Certificates/Slice0/Obligations.lean ====
section
/-! DEFINITION. The statements for the provers. Each docstring names the rule of spec/ it formalises. Register
encodings stand as the bits the spec gives (R24: mode 00 IDLE, 01 CONT, 10 BURST; R36: kind 000 NONE, 001 CMD0,
010 CFRAME, 011 SPEED, 100 VCC, 101 DRAIN). A record equation states the result and the frame together: every
field not named is unchanged, the buffer included. -/

open Sys2Proof Sys2Proof.Machine

/-! ## Encoding -/

/-- R82, R83, R86: decoding the words of a well-formed instruction gives it back. -/
def Obligations.DecodeOfEncode : Prop :=
  ∀ i : Instr, i.wellFormed = true → decodeBytes i.format (encode i) = .ok i

/-- R82, R83, R86: what decodes to an instruction is that instruction's words, and the instruction is well
formed, so every input stands for exactly one instruction. -/
def Obligations.EncodeOfDecode : Prop :=
  ∀ (f : Format) (bs : List Byte) (i : Instr), decodeBytes f bs = .ok i →
    i.format = f ∧ encode i = bs ∧ i.wellFormed = true

/-- R82, R86: a few words, written out from the opcode map and the event format. -/
def Obligations.KnownWordsDecode : Prop :=
  decodeTableWord 8 0x31 = some .testSpeed ∧ decodeTableWord 8 0x33 = some .stream ∧
  decodeTableWord 8 0x37 = some .burst ∧ decodeTableWord 8 0x38 = some (.ignore 0x38#8) ∧
  decodeTableWord 8 0xB1 = some (.ignore 0xB1#8) ∧
  decodeTableWord 16 0x0064 = some (.cplA 100#12) ∧ decodeTableWord 16 0x1004 = some (.cplB 4#12) ∧
  decodeTableWord 16 0x2000 = none

/-- R83: the decoder is total: the seven codes select their rows, every other byte selects IGNORE. -/
def Obligations.OpcodeMapIsTotal : Prop :=
  decodeCommand 0x31#8 = .testSpeed ∧ decodeCommand 0x32#8 = .readOnce ∧ decodeCommand 0x33#8 = .stream ∧
  decodeCommand 0x34#8 = .stop ∧ decodeCommand 0x35#8 = .readTemp ∧ decodeCommand 0x36#8 = .readVcc ∧
  decodeCommand 0x37#8 = .burst ∧
  ∀ op : Byte, decodeCommand op = .ignore op ↔ op.toNat < 0x31 ∨ 0x37 < op.toNat

/-- The words a table row stands for, placed by `withFetchWord`, are what the next step runs, from any state
(the host's two fixed names agree; log 3). -/
def Obligations.PlacedWordsAreRun : Prop :=
  ∀ (s : State) (nbits w : Nat) (i : Instr), decodeTableWord nbits w = some i →
    step (s.withFetchWord nbits w) = exec i { s.withFetchWord nbits w with script := s.script }

/-! ## The framer -/

/-- R150, R151: the tag stands in bits 15:14 and the reading below it. -/
def Obligations.TaggedWordLayout : Prop :=
  ∀ d : Sample, (tagWord .A d).toNat = 0x8000 + d.toNat ∧ (tagWord .B d).toNat = 0x4000 + d.toNat

/-- R152: byte 0 is `d[7:0]`, byte 1 is the tag over `m[13:8]`. -/
def Obligations.ContinuousFrameLayout : Prop :=
  ∀ d : Sample,
    (encCont .A d).bytes = [BitVec.ofNat 8 d.toNat, BitVec.ofNat 8 (0x80 + d.toNat / 256)] ∧
    (encCont .B d).bytes = [BitVec.ofNat 8 d.toNat, BitVec.ofNat 8 (0x40 + d.toNat / 256)]

/-- R153, R154, R91: a drain frame sends the high byte first, a raw frame the low byte first. -/
def Obligations.DrainAndRawFrameLayout : Prop :=
  (∀ w : TaggedWord, (encBurst w).bytes = [BitVec.ofNat 8 (w.toNat / 256), BitVec.ofNat 8 w.toNat]) ∧
  (∀ msb lsb : Byte, (encRaw msb lsb).bytes = [lsb, msb]) ∧
  (∀ i, i ≤ 255 → (speedFrame i).bytes = [BitVec.ofNat 8 i, 0x00#8]) ∧
  ∀ v : BitVec 16, (vccFrame v).bytes = [BitVec.ofNat 8 v.toNat, BitVec.ofNat 8 (v.toNat / 256)]

/-- R159: the host's reading of a frame gives back the channel and the reading exactly. -/
def Obligations.FramesRoundTrip : Prop :=
  ∀ (c : Chan) (d : Sample),
    readContFrame (encCont c d) = some (c, d.setWidth 14) ∧
    readDrainFrame (encBurst (tagWord c d)) = some (c, d.setWidth 14)

/-! ## Commands -/

/-- R172, with R156 and R180: TEST_SPEED starts its job and nothing else; the job sends `i, 0x00` for
`i = 0..255` and its Finish clears the inbound register. -/
def Obligations.TestSpeedSends512Bytes : Prop :=
  ∀ s : State,
    exec .testSpeed s = .next { s with seqKind := 0b011#3, seqIdx := 0 } ∧
    (s.fault = none →
      runMoves (jobMoves 512) { s with seqKind := 0b011#3, seqIdx := 0 } =
        { s with
          seqKind := 0b000#3, seqIdx := 0, rxByte := 0x00#8, rxFull := false
          txlog := s.txlog ++ (List.range 256).flatMap fun i => [BitVec.ofNat 8 i, 0x00#8] })

/-- R177, with R156 and R180: READ_VCC starts its job and nothing else; the job sends the low byte of the
constant, then the high byte. -/
def Obligations.ReadVccSendsTheConstant : Prop :=
  ∀ s : State,
    exec .readVcc s = .next { s with seqKind := 0b100#3, seqIdx := 0 } ∧
    (s.fault = none →
      runMoves (jobMoves 2) { s with seqKind := 0b100#3, seqIdx := 0 } =
        { s with
          seqKind := 0b000#3, seqIdx := 0, rxByte := 0x00#8, rxFull := false
          txlog := s.txlog ++ [s.cfg.vccWord.extractLsb' 0 8, s.cfg.vccWord.extractLsb' 8 8] })

/-- R173, R176, R179: READ_ONCE, READ_TEMP and every unknown byte start a job of no bytes and change nothing
else; its Finish clears the inbound register. -/
def Obligations.ReservedAndUnknownCommandsDoNothing : Prop :=
  ∀ (s : State) (op : Byte),
    exec .readOnce s = .next { s with seqKind := 0b001#3, seqIdx := 0 } ∧
    exec .readTemp s = .next { s with seqKind := 0b001#3, seqIdx := 0 } ∧
    exec (.ignore op) s = .next { s with seqKind := 0b001#3, seqIdx := 0 } ∧
    (s.fault = none →
      runMoves (jobMoves 0) { s with seqKind := 0b001#3, seqIdx := 0 } =
        { s with seqKind := 0b000#3, seqIdx := 0, rxByte := 0x00#8, rxFull := false })

/-- R174: STREAM arms every enabled channel and enters Continuous, from every state; the cursor, the buffer and
all else are kept. -/
def Obligations.StreamArmsAndEntersContinuous : Prop :=
  ∀ s : State, ∃ t : State, exec .stream s = .next t ∧ t.statusOn = true ∧
    t = { s with
      mode := 0b01#2
      chA := { s.chA with st := .conv }
      chB := if s.cfg.dual then { s.chB with st := .conv } else s.chB
      seqKind := 0b001#3, seqIdx := 0 }

/-- R175: STOP disarms every enabled channel and enters Idle, from every state; the cursor, the buffer and all
else are kept. -/
def Obligations.StopDisarmsAndEntersIdle : Prop :=
  ∀ s : State, ∃ t : State, exec .stop s = .next t ∧ t.statusOn = false ∧
    t = { s with
      mode := 0b00#2
      chA := { s.chA with st := .off }
      chB := if s.cfg.dual then { s.chB with st := .off } else s.chB
      seqKind := 0b001#3, seqIdx := 0 }

/-- R178, R140: BURST resets the cursor, arms every enabled channel and enters Burst, from every state; the
buffer's contents and all else are kept. -/
def Obligations.BurstRestartsTheBuffer : Prop :=
  ∀ s : State, ∃ t : State, exec .burst s = .next t ∧ t.statusOn = true ∧
    t = { s with
      mode := 0b10#2
      cursor := 0
      chA := { s.chA with st := .conv }
      chB := if s.cfg.dual then { s.chB with st := .conv } else s.chB
      seqKind := 0b001#3, seqIdx := 0 }

/-! ## Completions -/

/-- R122: a completion handled in Idle is discarded; only its channel's unit changes, to off. -/
def Obligations.CompletionInIdleIsDiscarded : Prop :=
  ∀ (s : State) (d : Sample), s.mode = 0b00#2 →
    exec (.cplA d) s = .next { s with chA := { s.chA with st := .off } } ∧
    exec (.cplB d) s = .next { s with chB := { s.chB with st := .off } }

/-- R123: a completion handled in Continuous starts the frame's job with its sample and channel. -/
def Obligations.CompletionInContinuousStartsAFrame : Prop :=
  ∀ (s : State) (d : Sample), s.mode = 0b01#2 →
    exec (.cplA d) s = .next { s with
      chA := { s.chA with st := .off }
      seqSample := d, seqChan := .A, seqKind := 0b010#3, seqIdx := 0 } ∧
    exec (.cplB d) s = .next { s with
      chB := { s.chB with st := .off }
      seqSample := d, seqChan := .B, seqKind := 0b010#3, seqIdx := 0 }

/-- R125: a completion handled in Burst that leaves the buffer short of full stores its tagged word at the
cursor, advances the cursor and re-arms its channel; every other word and all else are kept. -/
def Obligations.CompletionInBurstStoresAndRearms : Prop :=
  ∀ (s : State) (d : Sample), s.mode = 0b10#2 → s.cursor + 1 < s.cfg.capacity →
    (∃ t : State, exec (.cplA d) s = .next t ∧
      t = { s with buf := t.buf, cursor := s.cursor + 1, chA := { s.chA with st := .conv } } ∧
      t.bufWord s.cursor = BitVec.ofNat 16 (0x8000 + d.toNat) ∧
      ∀ i, i ≠ s.cursor → t.bufWord i = s.bufWord i) ∧
    (s.cfg.dual = true → ∃ t : State, exec (.cplB d) s = .next t ∧
      t = { s with buf := t.buf, cursor := s.cursor + 1, chB := { s.chB with st := .conv } } ∧
      t.bufWord s.cursor = BitVec.ofNat 16 (0x4000 + d.toNat) ∧
      ∀ i, i ≠ s.cursor → t.bufWord i = s.bufWord i)

/-- R126: the completion whose append makes `cursor = N` enters Idle, does not re-arm its channel and starts
the drain in the same step; every other word and all else, the other channel included, are kept. -/
def Obligations.CompletionThatFillsStartsTheDrain : Prop :=
  ∀ (s : State) (d : Sample), s.mode = 0b10#2 → s.cursor + 1 = s.cfg.capacity →
    (∃ t : State, exec (.cplA d) s = .next t ∧ t.statusOn = false ∧
      t = { s with
        buf := t.buf, cursor := s.cursor + 1, chA := { s.chA with st := .off }
        mode := 0b00#2, seqKind := 0b101#3, seqIdx := 0 } ∧
      t.bufWord s.cursor = BitVec.ofNat 16 (0x8000 + d.toNat) ∧
      ∀ i, i ≠ s.cursor → t.bufWord i = s.bufWord i) ∧
    (∃ t : State, exec (.cplB d) s = .next t ∧ t.statusOn = false ∧
      t = { s with
        buf := t.buf, cursor := s.cursor + 1, chB := { s.chB with st := .off }
        mode := 0b00#2, seqKind := 0b101#3, seqIdx := 0 } ∧
      t.bufWord s.cursor = BitVec.ofNat 16 (0x4000 + d.toNat) ∧
      ∀ i, i ≠ s.cursor → t.bufWord i = s.bufWord i)

/-- R121, R141, R111, R25: where a completion raises one of the model's faults, in states no run from reset
reaches. That the writes made before the raise stand is the model's choice (log 5). -/
def Obligations.CompletionRaisesModelFaults : Prop :=
  ∀ (s : State) (d : Sample),
    (s.mode = 0b11#2 →
      exec (.cplA d) s = .next { s with chA := { s.chA with st := .off }, fault := some .badMode } ∧
      exec (.cplB d) s = .next { s with chB := { s.chB with st := .off }, fault := some .badMode }) ∧
    (s.mode = 0b10#2 → s.cfg.capacity ≤ s.cursor →
      exec (.cplA d) s = .next { s with chA := { s.chA with st := .off }, fault := some .overrun } ∧
      exec (.cplB d) s = .next { s with chB := { s.chB with st := .off }, fault := some .overrun }) ∧
    (s.mode = 0b10#2 → s.cursor + 1 < s.cfg.capacity → s.cfg.dual = false →
      ∃ t : State, exec (.cplB d) s = .next t ∧ t.fault = some .disabledChannel ∧ t.chB.st = .off)

/-! ## The engine's other steps -/

/-- R156, R157, R144: each Emit sends the job's next byte and counts it, and changes nothing else. -/
def Obligations.EmitSendsTheNextByte : Prop :=
  ∀ s : State, s.fault = none →
    (s.seqKind = 0b010#3 → s.seqIdx < 2 → act .emit s = .next { s with
      txlog := s.txlog ++ [if s.seqIdx = 0 then (encCont s.seqChan s.seqSample).first
        else (encCont s.seqChan s.seqSample).second]
      seqIdx := s.seqIdx + 1 }) ∧
    (s.seqKind = 0b011#3 → s.seqIdx < 512 → act .emit s = .next { s with
      txlog := s.txlog ++ [if s.seqIdx % 2 = 0 then BitVec.ofNat 8 (s.seqIdx / 2) else 0x00#8]
      seqIdx := s.seqIdx + 1 }) ∧
    (s.seqKind = 0b100#3 → s.seqIdx < 2 → act .emit s = .next { s with
      txlog := s.txlog ++ [if s.seqIdx = 0 then s.cfg.vccWord.extractLsb' 0 8
        else s.cfg.vccWord.extractLsb' 8 8]
      seqIdx := s.seqIdx + 1 }) ∧
    (s.seqKind = 0b101#3 → s.seqIdx < 2 * s.cfg.capacity → act .emit s = .next { s with
      txlog := s.txlog ++ [if s.seqIdx % 2 = 0 then (s.bufWord (s.seqIdx / 2)).extractLsb' 8 8
        else (s.bufWord (s.seqIdx / 2)).extractLsb' 0 8]
      seqIdx := s.seqIdx + 1 })

/-- R180: the Finish of a command job clears the inbound register, whatever it holds, and frees the engine. -/
def Obligations.FinishOfCommandClearsInbound : Prop :=
  ∀ s : State, s.fault = none →
    (s.seqKind = 0b001#3 ∧ s.seqIdx = 0 ∨ s.seqKind = 0b011#3 ∧ s.seqIdx = 512 ∨
      s.seqKind = 0b100#3 ∧ s.seqIdx = 2) →
    act .finish s = .next { s with rxByte := 0x00#8, rxFull := false, seqKind := 0b000#3, seqIdx := 0 }

/-- R124: the Finish of a continuous frame re-arms the frame's channel if the mode is still a streaming one,
and frees the engine; the inbound register is not touched. -/
def Obligations.FinishOfFrameRearms : Prop :=
  ∀ s : State, s.fault = none → s.seqKind = 0b010#3 → s.seqIdx = 2 →
    (s.mode = 0b00#2 → act .finish s = .next { s with seqKind := 0b000#3, seqIdx := 0 }) ∧
    ((s.mode = 0b01#2 ∨ s.mode = 0b10#2) → s.seqChan = .A →
      act .finish s = .next { s with
        chA := { s.chA with st := .conv }, seqKind := 0b000#3, seqIdx := 0 }) ∧
    ((s.mode = 0b01#2 ∨ s.mode = 0b10#2) → s.seqChan = .B → s.cfg.dual = true →
      act .finish s = .next { s with
        chB := { s.chB with st := .conv }, seqKind := 0b000#3, seqIdx := 0 })

/-- R145: the Finish of a drain only frees the engine. -/
def Obligations.FinishOfDrainKeepsState : Prop :=
  ∀ s : State, s.fault = none → s.seqKind = 0b101#3 → s.seqIdx = 2 * s.cfg.capacity →
    act .finish s = .next { s with seqKind := 0b000#3, seqIdx := 0 }

/-- R25, R36, R111: where Emit and Finish raise one of the model's faults, in states no run from reset reaches.
That Emit raises BAD_SEQ and a frame's Finish raises BAD_MODE is inferred (log 6, log 7). -/
def Obligations.EngineRaisesModelFaults : Prop :=
  ∀ s : State, s.fault = none →
    (s.seqKind = 0b110#3 ∨ s.seqKind = 0b111#3 →
      act .emit s = .next { s with fault := some .badSeq }) ∧
    (s.seqKind = 0b010#3 → s.seqIdx = 2 → s.mode = 0b11#2 →
      act .finish s = .next { s with fault := some .badMode }) ∧
    (s.seqKind = 0b010#3 → s.seqIdx = 2 → (s.mode = 0b01#2 ∨ s.mode = 0b10#2) → s.seqChan = .B →
      s.cfg.dual = false → act .finish s = .next { s with fault := some .disabledChannel })

/-! ## The environment's steps, reset and boot -/

/-- R170: a received byte overwrites the inbound register and changes nothing else, in every state. -/
def Obligations.ReceivedByteOverwrites : Prop :=
  ∀ (s : State) (b : Byte), act (.rxArrive b) s = .next { s with rxByte := b, rxFull := true }

/-- R113: a conversion is enabled exactly while its channel converts; it latches the result and changes
nothing else. -/
def Obligations.ConversionLatches : Prop :=
  ∀ (s : State) (d : Sample),
    (s.chA.st = .conv → act (.convert .A d) s = .next { s with chA := { st := .done, data := d } }) ∧
    (s.chB.st = .conv → act (.convert .B d) s = .next { s with chB := { st := .done, data := d } }) ∧
    ∀ c : Chan, s.enables (.convert c d) = true ↔ (s.ch c).st = .conv

/-- R230, R231, R46: reset in any state leaves every field at its reset value and keeps the parameters. The
values of `buf` and of the channels' data are unspecified (I1, I2). -/
def Obligations.ResetInAnyState : Prop :=
  ∀ s : State, ∃ t : State, act .reset s = .next t ∧ t.cfg = s.cfg ∧ t.mode = 0b00#2 ∧ t.cursor = 0 ∧
    t.chA.st = .off ∧ t.chB.st = .off ∧ t.rxFull = false ∧ t.rxByte = 0x00#8 ∧ t.seqKind = 0b000#3 ∧
    t.seqIdx = 0 ∧ t.seqChan = .A ∧ t.seqSample = 0x000#12 ∧ t.fault = none ∧ t.txlog = [] ∧
    t.statusOn = false

/-- R46: the machine right after reset. The values of `buf` and of the channels' data are unspecified. -/
def Obligations.ResetStateValues : Prop :=
  State.reset.mode = 0b00#2 ∧ State.reset.cursor = 0 ∧ State.reset.chA.st = .off ∧
  State.reset.chB.st = .off ∧ State.reset.rxFull = false ∧ State.reset.rxByte = 0x00#8 ∧
  State.reset.seqKind = 0b000#3 ∧ State.reset.seqIdx = 0 ∧ State.reset.seqChan = .A ∧
  State.reset.seqSample = 0x000#12 ∧ State.reset.fault = none ∧ State.reset.txlog = [] ∧
  State.reset.statusOn = false

/-- R8, R210: a configuration with `N = 0` is refused before any step; every other one boots with the
parameters given, into a state that satisfies the invariants. -/
def Obligations.BootRefusesZeroCapacity : Prop :=
  ∀ (dual : Bool) (vcc : BitVec 16),
    boot 0 dual vcc = .refused .badConfiguration ∧
    ∀ n, 1 ≤ n → ∃ t : State, boot n dual vcc = .next t ∧ t.cfg.capacity = n ∧ t.cfg.dual = dual ∧
      t.cfg.vccWord = vcc ∧ CoreInv t

/-! ## The step -/

/-- R171, R121, R204: where the next move is the Dispatch of a pending event and the engine is idle, the step
runs the instruction that the held byte, or the latched completion, decodes to, at the state with that move
taken off. -/
def Obligations.StepRunsDecodedInstruction : Prop :=
  ∀ (s : State) (ms : List Move) (i : Instr), s.seqKind = 0b000#3 → s.fault = none →
    (s.script = .dispatch .cmd :: ms → s.rxFull = true → decodeBytes .cmd8 [s.rxByte] = .ok i →
      step s = exec i { s with script := ms }) ∧
    ∀ c : Chan, s.script = .dispatch (.cpl c) :: ms → (s.ch c).st = .done →
      decodeBytes .evt13 (eventBytes (eventWord c (s.ch c).data)) = .ok i →
      step s = exec i { s with script := ms }

/-- R12: a step is the move that stands next, at the state with it taken off; where none stands, a free one
(the model's own bookkeeping, log 2). -/
def Obligations.StepTakesTheNextMove : Prop :=
  (∀ (s : State) (m : Move) (ms : List Move), s.script = m :: ms → step s = act m { s with script := ms }) ∧
  ∀ s : State, s.script = [] → step s = act (Config.freeMove s.draws) { s with draws := s.draws + 1 }

/-- R13, R208: every step answers a next state: a raised fault is recorded in it, and nothing is refused. -/
def Obligations.StepAlwaysAnswersNext : Prop :=
  ∀ s : State, ∃ t : State, step s = .next t

/-- R12, R204: a move that is not an enabled step is passed over (log 4); Emit of a reserved job kind is the
one exception (log 7). -/
def Obligations.DisabledMovesChangeNothing : Prop :=
  ∀ (s : State) (m : Move), s.enables m = false →
    (m = .emit → s.seqKind ≠ 0b110#3 ∧ s.seqKind ≠ 0b111#3) → act m s = .next s

/-- R204: when the engine is idle and unfaulted, every pending event's Dispatch is enabled, whatever else is
pending; and no other Dispatch is. -/
def Obligations.AnyPendingEventMayBeDispatched : Prop :=
  ∀ s : State,
    (s.enables (.dispatch .cmd) = true ↔ s.seqKind = 0b000#3 ∧ s.fault = none ∧ s.rxFull = true) ∧
    ∀ c : Chan, s.enables (.dispatch (.cpl c)) = true ↔
      s.seqKind = 0b000#3 ∧ s.fault = none ∧ (s.ch c).st = .done

/-- R49, R207: while a job runs, no Dispatch is enabled, and Emit leaves every latched event as it is. That a
Dispatch move then changes nothing is the model's choice: a move that is not enabled is passed over (log 4). -/
def Obligations.BusyEngineDispatchesNothing : Prop :=
  ∀ s : State, s.seqKind ≠ 0b000#3 → s.busy = true ∧
    (∀ e : Event, s.enables (.dispatch e) = false ∧ act (.dispatch e) s = .next s) ∧
    (stateAfter .emit s).rxFull = s.rxFull ∧ (stateAfter .emit s).rxByte = s.rxByte ∧
    (stateAfter .emit s).chA = s.chA ∧ (stateAfter .emit s).chB = s.chB

/-- R209, R13: a fault is sticky: after it no engine step is enabled, no byte is sent, and only reset clears it.
That an engine move then leaves the whole state as it was is the model's choice: a move that is not enabled is
passed over (log 4). -/
def Obligations.FaultsAreSticky : Prop :=
  ∀ (s : State) (m : Move), s.fault ≠ none → m ≠ .reset →
    (stateAfter m s).fault = s.fault ∧ (stateAfter m s).txlog = s.txlog ∧
    (m.isEngine = true → s.enables m = false ∧ stateAfter m s = s)

/-- R49, R142, R44: the derived flags. -/
def Obligations.DerivedFlags : Prop :=
  ∀ s : State, (s.busy = true ↔ s.seqKind ≠ 0b000#3) ∧ (s.full = true ↔ s.cursor = s.cfg.capacity) ∧
    (s.statusOn = true ↔ s.mode ≠ 0b00#2)

/-! ## Invariants -/

/-- R47: every step keeps the invariants, from every state that has them. No fault is among them, so no step
from such a state raises one (R209). -/
def Obligations.StepKeepsInvariant : Prop :=
  ∀ s t : State, CoreInv s → step s = .next t → CoreInv t

/-- R47: the machine right after reset has the invariants. -/
def Obligations.ResetSatisfiesInvariant : Prop := CoreInv State.reset

/-- R27, R37, R47 item 8: with the invariants, the two counters fit the widths the spec gives their registers,
and the next APPEND or Emit does not wrap one. -/
def Obligations.CountersFitTheirRegisters : Prop :=
  ∀ s : State, CoreInv s → s.cursor < 2 ^ s.cfg.cursorWidth ∧ s.seqIdx < 2 ^ s.cfg.indexWidth ∧
    (s.mode = 0b10#2 → s.cursor + 1 ≤ s.cfg.capacity ∧ s.cursor + 1 < 2 ^ s.cfg.cursorWidth) ∧
    (s.enables .emit = true → s.seqIdx + 1 < 2 ^ s.cfg.indexWidth)

/-- R51, R52: a write below `N` stores its word and leaves every other word alone; a read or a write at `N` or
above raises OVERRUN. That a write keeps the canonical form is the model's own: the spec has no such form
(DESIGN CHOICE, log 8). -/
def Obligations.BufferReadAfterWrite : Prop :=
  ∀ (s : State) (i : Nat) (v : TaggedWord),
    (i < s.cfg.capacity → ∃ t : State, memWrite i v s = .ok () t ∧ t = { s with buf := t.buf } ∧
      memRead i t = .ok v t ∧
      (∀ j, j < s.cfg.capacity → j ≠ i → memRead j t = .ok (s.bufWord j) t) ∧
      (Memory.wf s.buf = true → Memory.wf t.buf = true)) ∧
    (s.cfg.capacity ≤ i →
      memWrite i v s = .raised { s with fault := some .overrun } ∧
      memRead i s = .raised { s with fault := some .overrun })

/-! ## Who writes what: rules over all moves -/

/-- R26, R120: the mode changes only by STREAM, STOP, BURST, the completion that fills the buffer, or reset,
and to the mode each one writes. -/
def Obligations.ModeChangesOnlyBy : Prop :=
  ∀ (s : State) (m : Move), (stateAfter m s).mode ≠ s.mode →
    (m = .dispatch .cmd ∧ s.seqKind = 0b000#3 ∧ s.fault = none ∧ s.rxFull = true ∧
      (s.rxByte = 0x33#8 ∧ (stateAfter m s).mode = 0b01#2 ∨
        s.rxByte = 0x34#8 ∧ (stateAfter m s).mode = 0b00#2 ∨
        s.rxByte = 0x37#8 ∧ (stateAfter m s).mode = 0b10#2)) ∨
    (∃ c : Chan, m = .dispatch (.cpl c) ∧ (s.ch c).st = .done ∧ s.mode = 0b10#2 ∧
      s.cursor + 1 = s.cfg.capacity ∧ (stateAfter m s).mode = 0b00#2) ∨
    m = .reset

/-- R28: the cursor changes only by BURST, to 0, by a completion appended in Burst, by 1, or by reset. -/
def Obligations.CursorChangesOnlyBy : Prop :=
  ∀ (s : State) (m : Move), (stateAfter m s).cursor ≠ s.cursor →
    (m = .dispatch .cmd ∧ s.rxByte = 0x37#8 ∧ (stateAfter m s).cursor = 0) ∨
    (∃ c : Chan, m = .dispatch (.cpl c) ∧ s.mode = 0b10#2 ∧ s.cursor < s.cfg.capacity ∧
      (stateAfter m s).cursor = s.cursor + 1) ∨
    m = .reset

/-- R34: the inbound register changes only when a byte arrives, at the Finish of a command job, or by reset. -/
def Obligations.InboundChangesOnlyBy : Prop :=
  ∀ (s : State) (m : Move),
    (stateAfter m s).rxByte ≠ s.rxByte ∨ (stateAfter m s).rxFull ≠ s.rxFull →
    (∃ b : Byte, m = .rxArrive b ∧ (stateAfter m s).rxByte = b ∧ (stateAfter m s).rxFull = true) ∨
    (m = .finish ∧ (s.seqKind = 0b001#3 ∨ s.seqKind = 0b011#3 ∨ s.seqKind = 0b100#3) ∧
      (stateAfter m s).rxByte = 0x00#8 ∧ (stateAfter m s).rxFull = false) ∨
    m = .reset

/-- R32: a channel's unit state changes only by ARM, DISARM, Convert, onComplete, or reset, each in its own
callers. -/
def Obligations.ChannelStateChangesOnlyBy : Prop :=
  ∀ (s : State) (m : Move) (c : Chan), ((stateAfter m s).ch c).st ≠ (s.ch c).st →
    (((stateAfter m s).ch c).st = .conv ∧ c ∈ s.cfg.enabled ∧
      (m = .dispatch .cmd ∧ (s.rxByte = 0x33#8 ∨ s.rxByte = 0x37#8) ∨
        m = .finish ∧ s.seqKind = 0b010#3 ∧ s.seqChan = c ∨
        m = .dispatch (.cpl c) ∧ s.mode = 0b10#2)) ∨
    (((stateAfter m s).ch c).st = .off ∧
      (m = .dispatch .cmd ∧ s.rxByte = 0x34#8 ∧ c ∈ s.cfg.enabled ∨
        m = .dispatch (.cpl c) ∧ (s.ch c).st = .done)) ∨
    (((stateAfter m s).ch c).st = .done ∧ (s.ch c).st = .conv ∧ ∃ d : Sample, m = .convert c d) ∨
    m = .reset

/-- R31: a channel's latched reading changes only when that channel converts, or by reset. -/
def Obligations.ReadingChangesOnlyBy : Prop :=
  ∀ (s : State) (m : Move) (c : Chan), ((stateAfter m s).ch c).data ≠ (s.ch c).data →
    (∃ d : Sample, m = .convert c d ∧ (s.ch c).st = .conv ∧ ((stateAfter m s).ch c).data = d) ∨ m = .reset

/-- R41: the transmit log grows only by Emit, one byte at a time, and only reset clears it. -/
def Obligations.TransmitLogChangesOnlyBy : Prop :=
  ∀ (s : State) (m : Move), (stateAfter m s).txlog ≠ s.txlog →
    (m = .emit ∧ (∃ b : Byte, (stateAfter m s).txlog = s.txlog ++ [b]) ∧
      (stateAfter m s).seqIdx = s.seqIdx + 1 ∧
      (s.seqKind = 0b010#3 ∨ s.seqKind = 0b011#3 ∨ s.seqKind = 0b100#3 ∨ s.seqKind = 0b101#3)) ∨
    m = .reset

/-- R53, R148: a word of the buffer keeps its value until an APPEND writes its index: only a completion
dispatched in Burst changes one, at the cursor, below `N`; or reset. -/
def Obligations.BufferWordChangesOnlyBy : Prop :=
  ∀ (s : State) (m : Move) (i : Nat), (stateAfter m s).bufWord i ≠ s.bufWord i →
    (∃ c : Chan, m = .dispatch (.cpl c) ∧ s.mode = 0b10#2 ∧ i = s.cursor ∧ i < s.cfg.capacity ∧
      (stateAfter m s).bufWord i = tagWord c (s.ch c).data) ∨
    m = .reset

/-- R45: no step writes `N`, `DUAL` or `VCC_WORD`. -/
def Obligations.ParametersAreConstant : Prop :=
  ∀ s t : State, step s = .next t → t.cfg = s.cfg

/-- R110: what ARM, DISARM, Convert and onComplete do to one channel does not depend on the other channel's
unit and leaves it alone. -/
def Obligations.ChannelsAreIndependent : Prop :=
  ∀ (s : State) (c : Chan) (u : ChanUnit) (d : Sample),
    (arm c (s.setCh c.other u)).state = (arm c s).state.setCh c.other u ∧
    (disarm c (s.setCh c.other u)).state = (disarm c s).state.setCh c.other u ∧
    convert c d (s.setCh c.other u) = (convert c d s).setCh c.other u ∧
    (onComplete c (s.setCh c.other u)).1 = (onComplete c s).1 ∧
    (onComplete c (s.setCh c.other u)).2 = (onComplete c s).2.setCh c.other u

/-! ## Runs of the engine -/

/-- R143, R144, R145: a drain sends the words of the buffer in index order, high byte first, `2 * N` bytes in
one unbroken run, and its Finish frees the engine; nothing else changes. -/
def Obligations.DrainSendsTheBufferInOrder : Prop :=
  ∀ s : State, s.fault = none → s.seqKind = 0b101#3 → s.seqIdx = 0 →
    runMoves (jobMoves (2 * s.cfg.capacity)) s =
      { s with
        seqKind := 0b000#3, seqIdx := 0
        txlog := s.txlog ++ (List.range s.cfg.capacity).flatMap fun i =>
          [(s.bufWord i).extractLsb' 8 8, (s.bufWord i).extractLsb' 0 8] }

/-- R123, R124, R152: a completion pending in Continuous is sent as one frame, low byte first, and its channel
is then re-armed; nothing else changes. -/
def Obligations.ContinuousSampleIsSentAndRearmed : Prop :=
  ∀ (s : State) (c : Chan), s.mode = 0b01#2 → s.seqKind = 0b000#3 → s.fault = none →
    (s.ch c).st = .done → c ∈ s.cfg.enabled →
    runMoves (.dispatch (.cpl c) :: jobMoves 2) s =
      { s.setSt c .conv with
        seqIdx := 0, seqChan := c, seqSample := (s.ch c).data
        txlog := s.txlog ++ (encCont c (s.ch c).data).bytes }

/-- R146: STOP or STREAM dispatched during a burst sends nothing from the buffer and leaves the cursor and the
buffer as they were. -/
def Obligations.CancelledBurstIsNotDrained : Prop :=
  ∀ s : State, s.mode = 0b10#2 → s.seqKind = 0b000#3 → s.fault = none → s.rxFull = true →
    (s.rxByte = 0x34#8 ∨ s.rxByte = 0x33#8) →
    (runMoves (.dispatch .cmd :: jobMoves 0) s).txlog = s.txlog ∧
    (runMoves (.dispatch .cmd :: jobMoves 0) s).cursor = s.cursor ∧
    (runMoves (.dispatch .cmd :: jobMoves 0) s).buf = s.buf ∧
    (runMoves (.dispatch .cmd :: jobMoves 0) s).busy = false ∧
    (runMoves (.dispatch .cmd :: jobMoves 0) s).mode = if s.rxByte = 0x34#8 then 0b00#2 else 0b01#2

/-- R182: from Idle with the engine idle, each byte gives exactly its rule's transition and output, and every
byte that is no defined command leaves all but the inbound register as it was. -/
def Obligations.IdleCommandResponses : Prop :=
  ∀ (s : State) (reply : List Byte), s.mode = 0b00#2 → s.seqKind = 0b000#3 → s.fault = none →
    s.rxFull = true →
    reply = (if s.rxByte = 0x31#8 then (List.range 256).flatMap fun i => [BitVec.ofNat 8 i, 0x00#8]
      else if s.rxByte = 0x36#8 then [s.cfg.vccWord.extractLsb' 0 8, s.cfg.vccWord.extractLsb' 8 8]
      else []) →
    runMoves (.dispatch .cmd :: jobMoves reply.length) s =
      { s with
        rxFull := false, rxByte := 0x00#8, seqIdx := 0
        txlog := s.txlog ++ reply
        mode := if s.rxByte = 0x33#8 then 0b01#2 else if s.rxByte = 0x37#8 then 0b10#2 else 0b00#2
        cursor := if s.rxByte = 0x37#8 then 0 else s.cursor
        chA := if s.rxByte = 0x33#8 ∨ s.rxByte = 0x37#8 then { s.chA with st := .conv }
          else if s.rxByte = 0x34#8 then { s.chA with st := .off } else s.chA
        chB := if s.cfg.dual = true ∧ (s.rxByte = 0x33#8 ∨ s.rxByte = 0x37#8) then
            { s.chB with st := .conv }
          else if s.cfg.dual = true ∧ s.rxByte = 0x34#8 then { s.chB with st := .off } else s.chB }

/-- R234, R235, R236: a byte that arrives before the held one is dispatched replaces it; one that arrives while
a command's job runs is cleared by that job's Finish; one that arrives while a completion's job runs is kept by
that job's Finish. -/
def Obligations.HeldByteAcrossJobs : Prop :=
  ∀ (s : State) (b : Byte), s.fault = none →
    (s.seqKind = 0b000#3 →
      act (.dispatch .cmd) (rxArrive b s) = exec (decodeCommand b) (rxArrive b s)) ∧
    (s.commandRunning = true → s.enables .finish = true →
      (runMoves [.rxArrive b, .finish] s).rxFull = false ∧
      (runMoves [.rxArrive b, .finish] s).rxByte = 0x00#8) ∧
    (s.seqKind = 0b010#3 ∨ s.seqKind = 0b101#3 → s.enables .finish = true →
      (runMoves [.rxArrive b, .finish] s).rxFull = true ∧
      (runMoves [.rxArrive b, .finish] s).rxByte = b)

/-- R129, R125 to R127, R140 to R147: after a BURST command's Dispatch, the first `N - 1` completions, of any
enabled channels in any order, each dispatched as soon as it has converted, are stored and send nothing; the
`N`-th starts the drain, which sends exactly the `N` tagged words in the order their completions were dispatched,
high byte first. -/
def Obligations.BurstDrainsExactlyItsSamples : Prop :=
  ∀ (s : State) (es : List (Chan × Sample)), s.seqKind = 0b000#3 → s.fault = none → s.rxFull = true →
    s.rxByte = 0x37#8 → (∀ e, e ∈ es → e.1 ∈ s.cfg.enabled) →
    (es.length < s.cfg.capacity →
      (runMoves (.dispatch .cmd :: .finish :: sampleMoves es) s).txlog = s.txlog ∧
      (runMoves (.dispatch .cmd :: .finish :: sampleMoves es) s).mode = 0b10#2 ∧
      (runMoves (.dispatch .cmd :: .finish :: sampleMoves es) s).cursor = es.length ∧
      (runMoves (.dispatch .cmd :: .finish :: sampleMoves es) s).busy = false) ∧
    (es.length = s.cfg.capacity →
      (runMoves (.dispatch .cmd :: .finish :: sampleMoves es) s).txlog = s.txlog ∧
      (runMoves (.dispatch .cmd :: .finish :: sampleMoves es) s).seqKind = 0b101#3 ∧
      (runMoves (.dispatch .cmd :: .finish :: (sampleMoves es ++ jobMoves (2 * s.cfg.capacity))) s).txlog =
        s.txlog ++ es.flatMap (fun e =>
          [(tagWord e.1 e.2).extractLsb' 8 8, (tagWord e.1 e.2).extractLsb' 0 8]) ∧
      (runMoves (.dispatch .cmd :: .finish :: (sampleMoves es ++ jobMoves (2 * s.cfg.capacity))) s).mode =
        0b00#2 ∧
      (runMoves (.dispatch .cmd :: .finish :: (sampleMoves es ++ jobMoves (2 * s.cfg.capacity))) s).busy =
        false)

/-! ## Isolation and progress -/

/-- R14, R147, R43, I1 to I3: nothing the outside can see ever depends on a stale or unspecified word of the buffer,
or on the reading of a channel with no completion pending. -/
def Obligations.HiddenStateNeverShows : Prop :=
  ∀ s t s' t' : State, CoreInv s → CoreInv t → SameVisible s t → step s = .next s' → step t = .next t' →
    SameVisible s' t' ∧ observe s' = observe t'

/-- R218 (F1), R207: along every weakly fair sequence of moves, every job ends: the engine is idle again and
again. -/
def Obligations.JobsEndUnderWeakFairness : Prop :=
  ∀ (moves : Nat → Move) (s : State), CoreInv s → WeaklyFair moves s →
    ∀ k, ∃ j, k ≤ j ∧ (traceOf moves s j).busy = false

/-- R93: RUN takes engine steps only, and stops only where none is enabled. -/
def Obligations.RunTakesEngineStepsToTheEnd : Prop :=
  ∀ (order : List Event) (s : State),
    (∀ m, m ∈ (Line.run order).moves s → m.isEngine = true) ∧
    (CoreInv s → ∀ m, m.isEngine = true →
      (runMoves ((Line.run order).moves s) s).enables m = false)
end

