-- ==== Sys2Proof/Laws/Memory.lean ====
section
/-! SUPPORT. The laws of the burst buffer's storage: read after write, and the canonical form. -/

namespace Sys2Proof.Machine

open Sys2Proof

@[simp] theorem Memory.read_nil (i : Nat) : Memory.read [] i = none := rfl

/-- Reading the index just written gives the word written. -/
@[simp] theorem Memory.read_write_same (m : Memory) (i : Nat) (v : TaggedWord) :
    Memory.read (Memory.write m i v) i = some v := by
  induction m with
  | nil => simp [Memory.write, Memory.read]
  | cons p m ih =>
    obtain ⟨j, w⟩ := p
    unfold Memory.write
    split
    · simp [Memory.read]
    · split
      · simp [Memory.read]
      · simp [Memory.read, ih, Ne.symm ‹¬ i = j›]

/-- A write leaves every other index alone. -/
theorem Memory.read_write_other (m : Memory) {i j : Nat} (v : TaggedWord) (h : j ≠ i) :
    Memory.read (Memory.write m i v) j = Memory.read m j := by
  induction m with
  | nil => simp [Memory.write, Memory.read, Ne.symm h]
  | cons p m ih =>
    obtain ⟨k, w⟩ := p
    unfold Memory.write
    split
    · simp [Memory.read, Ne.symm h]
    · split
      · subst i; simp [Memory.read, Ne.symm h]
      · simp [Memory.read, ih]

theorem Memory.read_write (m : Memory) (i j : Nat) (v : TaggedWord) :
    Memory.read (Memory.write m i v) j = if j = i then some v else Memory.read m j := by
  by_cases h : j = i
  · subst h; simp
  · simp [h, Memory.read_write_other]

/-- Every write keeps the canonical form. -/
theorem Memory.wf_write (m : Memory) (i : Nat) (v : TaggedWord) (h : Memory.wf m = true) :
    Memory.wf (Memory.write m i v) = true := by
  induction m with
  | nil => rfl
  | cons p m ih =>
    obtain ⟨j, w⟩ := p
    cases m with
    | nil =>
      unfold Memory.write
      split
      · simpa [Memory.wf]
      · split
        · rfl
        · simp [Memory.write, Memory.wf]; omega
    | cons q m =>
      obtain ⟨k, x⟩ := q
      simp only [Memory.wf, Bool.and_eq_true, decide_eq_true_eq] at h
      unfold Memory.write
      split
      · simp [Memory.wf, h]; omega
      · split
        · subst i; simp [Memory.wf, h]
        · have := ih h.2
          unfold Memory.write at this ⊢
          by_cases h1 : i < k
          · simp only [if_pos h1] at this ⊢
            simp only [Memory.wf, Bool.and_eq_true, decide_eq_true_eq] at this ⊢
            exact ⟨by omega, this⟩
          · by_cases h2 : i = k
            · simp only [if_neg h1, if_pos h2, Memory.wf] at this ⊢
              simp only [Bool.and_eq_true, decide_eq_true_eq]
              exact ⟨by omega, this⟩
            · simp only [if_neg h1, if_neg h2, Memory.wf] at this ⊢
              simp only [Bool.and_eq_true, decide_eq_true_eq]
              exact ⟨h.1, this⟩

end Sys2Proof.Machine
end

