-- ==== Sys2Proof/Laws/State.lean ====
section
/-! SUPPORT. What each state update does to each field: one lemma per field, so that no later proof unfolds a
record update. -/

namespace Sys2Proof.Machine

open Sys2Proof

@[simp] theorem setMode_cfg (m : CaptureMode) (s : State) : (setMode m s).cfg = s.cfg := rfl
@[simp] theorem setMode_mode (m : CaptureMode) (s : State) : (setMode m s).mode = m.bits := rfl
@[simp] theorem setMode_cursor (m : CaptureMode) (s : State) : (setMode m s).cursor = s.cursor := rfl
@[simp] theorem setMode_buf (m : CaptureMode) (s : State) : (setMode m s).buf = s.buf := rfl
@[simp] theorem setMode_chA (m : CaptureMode) (s : State) : (setMode m s).chA = s.chA := rfl
@[simp] theorem setMode_chB (m : CaptureMode) (s : State) : (setMode m s).chB = s.chB := rfl
@[simp] theorem setMode_rxFull (m : CaptureMode) (s : State) : (setMode m s).rxFull = s.rxFull := rfl
@[simp] theorem setMode_rxByte (m : CaptureMode) (s : State) : (setMode m s).rxByte = s.rxByte := rfl
@[simp] theorem setMode_seqKind (m : CaptureMode) (s : State) : (setMode m s).seqKind = s.seqKind := rfl
@[simp] theorem setMode_seqIdx (m : CaptureMode) (s : State) : (setMode m s).seqIdx = s.seqIdx := rfl
@[simp] theorem setMode_seqChan (m : CaptureMode) (s : State) : (setMode m s).seqChan = s.seqChan := rfl
@[simp] theorem setMode_seqSample (m : CaptureMode) (s : State) : (setMode m s).seqSample = s.seqSample := rfl
@[simp] theorem setMode_fault (m : CaptureMode) (s : State) : (setMode m s).fault = s.fault := rfl
@[simp] theorem setMode_txlog (m : CaptureMode) (s : State) : (setMode m s).txlog = s.txlog := rfl
@[simp] theorem setMode_script (m : CaptureMode) (s : State) : (setMode m s).script = s.script := rfl
@[simp] theorem setMode_draws (m : CaptureMode) (s : State) : (setMode m s).draws = s.draws := rfl
@[simp] theorem setMode_resets (m : CaptureMode) (s : State) : (setMode m s).resets = s.resets := rfl

@[simp] theorem startJob_cfg (k : JobKind) (s : State) : (startJob k s).cfg = s.cfg := rfl
@[simp] theorem startJob_mode (k : JobKind) (s : State) : (startJob k s).mode = s.mode := rfl
@[simp] theorem startJob_cursor (k : JobKind) (s : State) : (startJob k s).cursor = s.cursor := rfl
@[simp] theorem startJob_buf (k : JobKind) (s : State) : (startJob k s).buf = s.buf := rfl
@[simp] theorem startJob_chA (k : JobKind) (s : State) : (startJob k s).chA = s.chA := rfl
@[simp] theorem startJob_chB (k : JobKind) (s : State) : (startJob k s).chB = s.chB := rfl
@[simp] theorem startJob_rxFull (k : JobKind) (s : State) : (startJob k s).rxFull = s.rxFull := rfl
@[simp] theorem startJob_rxByte (k : JobKind) (s : State) : (startJob k s).rxByte = s.rxByte := rfl
@[simp] theorem startJob_seqKind (k : JobKind) (s : State) : (startJob k s).seqKind = k.bits := rfl
@[simp] theorem startJob_seqIdx (k : JobKind) (s : State) : (startJob k s).seqIdx = 0 := rfl
@[simp] theorem startJob_seqChan (k : JobKind) (s : State) : (startJob k s).seqChan = s.seqChan := rfl
@[simp] theorem startJob_seqSample (k : JobKind) (s : State) : (startJob k s).seqSample = s.seqSample := rfl
@[simp] theorem startJob_fault (k : JobKind) (s : State) : (startJob k s).fault = s.fault := rfl
@[simp] theorem startJob_txlog (k : JobKind) (s : State) : (startJob k s).txlog = s.txlog := rfl
@[simp] theorem startJob_script (k : JobKind) (s : State) : (startJob k s).script = s.script := rfl
@[simp] theorem startJob_draws (k : JobKind) (s : State) : (startJob k s).draws = s.draws := rfl
@[simp] theorem startJob_resets (k : JobKind) (s : State) : (startJob k s).resets = s.resets := rfl

@[simp] theorem drainStart_cfg (s : State) : (drainStart s).cfg = s.cfg := rfl
@[simp] theorem drainStart_mode (s : State) : (drainStart s).mode = s.mode := rfl
@[simp] theorem drainStart_cursor (s : State) : (drainStart s).cursor = s.cursor := rfl
@[simp] theorem drainStart_buf (s : State) : (drainStart s).buf = s.buf := rfl
@[simp] theorem drainStart_chA (s : State) : (drainStart s).chA = s.chA := rfl
@[simp] theorem drainStart_chB (s : State) : (drainStart s).chB = s.chB := rfl
@[simp] theorem drainStart_rxFull (s : State) : (drainStart s).rxFull = s.rxFull := rfl
@[simp] theorem drainStart_rxByte (s : State) : (drainStart s).rxByte = s.rxByte := rfl
@[simp] theorem drainStart_seqKind (s : State) : (drainStart s).seqKind = JobKind.bits .drain := rfl
@[simp] theorem drainStart_seqIdx (s : State) : (drainStart s).seqIdx = 0 := rfl
@[simp] theorem drainStart_seqChan (s : State) : (drainStart s).seqChan = s.seqChan := rfl
@[simp] theorem drainStart_seqSample (s : State) : (drainStart s).seqSample = s.seqSample := rfl
@[simp] theorem drainStart_fault (s : State) : (drainStart s).fault = s.fault := rfl
@[simp] theorem drainStart_txlog (s : State) : (drainStart s).txlog = s.txlog := rfl
@[simp] theorem drainStart_script (s : State) : (drainStart s).script = s.script := rfl
@[simp] theorem drainStart_draws (s : State) : (drainStart s).draws = s.draws := rfl
@[simp] theorem drainStart_resets (s : State) : (drainStart s).resets = s.resets := rfl

@[simp] theorem endJob_cfg (s : State) : (endJob s).cfg = s.cfg := rfl
@[simp] theorem endJob_mode (s : State) : (endJob s).mode = s.mode := rfl
@[simp] theorem endJob_cursor (s : State) : (endJob s).cursor = s.cursor := rfl
@[simp] theorem endJob_buf (s : State) : (endJob s).buf = s.buf := rfl
@[simp] theorem endJob_chA (s : State) : (endJob s).chA = s.chA := rfl
@[simp] theorem endJob_chB (s : State) : (endJob s).chB = s.chB := rfl
@[simp] theorem endJob_rxFull (s : State) : (endJob s).rxFull = s.rxFull := rfl
@[simp] theorem endJob_rxByte (s : State) : (endJob s).rxByte = s.rxByte := rfl
@[simp] theorem endJob_seqKind (s : State) : (endJob s).seqKind = JobKind.bits .noJob := rfl
@[simp] theorem endJob_seqIdx (s : State) : (endJob s).seqIdx = 0 := rfl
@[simp] theorem endJob_seqChan (s : State) : (endJob s).seqChan = s.seqChan := rfl
@[simp] theorem endJob_seqSample (s : State) : (endJob s).seqSample = s.seqSample := rfl
@[simp] theorem endJob_fault (s : State) : (endJob s).fault = s.fault := rfl
@[simp] theorem endJob_txlog (s : State) : (endJob s).txlog = s.txlog := rfl
@[simp] theorem endJob_script (s : State) : (endJob s).script = s.script := rfl
@[simp] theorem endJob_draws (s : State) : (endJob s).draws = s.draws := rfl
@[simp] theorem endJob_resets (s : State) : (endJob s).resets = s.resets := rfl

@[simp] theorem clearInbound_cfg (s : State) : (clearInbound s).cfg = s.cfg := rfl
@[simp] theorem clearInbound_mode (s : State) : (clearInbound s).mode = s.mode := rfl
@[simp] theorem clearInbound_cursor (s : State) : (clearInbound s).cursor = s.cursor := rfl
@[simp] theorem clearInbound_buf (s : State) : (clearInbound s).buf = s.buf := rfl
@[simp] theorem clearInbound_chA (s : State) : (clearInbound s).chA = s.chA := rfl
@[simp] theorem clearInbound_chB (s : State) : (clearInbound s).chB = s.chB := rfl
@[simp] theorem clearInbound_rxFull (s : State) : (clearInbound s).rxFull = false := rfl
@[simp] theorem clearInbound_rxByte (s : State) : (clearInbound s).rxByte = 0x00#8 := rfl
@[simp] theorem clearInbound_seqKind (s : State) : (clearInbound s).seqKind = s.seqKind := rfl
@[simp] theorem clearInbound_seqIdx (s : State) : (clearInbound s).seqIdx = s.seqIdx := rfl
@[simp] theorem clearInbound_seqChan (s : State) : (clearInbound s).seqChan = s.seqChan := rfl
@[simp] theorem clearInbound_seqSample (s : State) : (clearInbound s).seqSample = s.seqSample := rfl
@[simp] theorem clearInbound_fault (s : State) : (clearInbound s).fault = s.fault := rfl
@[simp] theorem clearInbound_txlog (s : State) : (clearInbound s).txlog = s.txlog := rfl
@[simp] theorem clearInbound_script (s : State) : (clearInbound s).script = s.script := rfl
@[simp] theorem clearInbound_draws (s : State) : (clearInbound s).draws = s.draws := rfl
@[simp] theorem clearInbound_resets (s : State) : (clearInbound s).resets = s.resets := rfl

@[simp] theorem resetCursor_cfg (s : State) : (resetCursor s).cfg = s.cfg := rfl
@[simp] theorem resetCursor_mode (s : State) : (resetCursor s).mode = s.mode := rfl
@[simp] theorem resetCursor_cursor (s : State) : (resetCursor s).cursor = 0 := rfl
@[simp] theorem resetCursor_buf (s : State) : (resetCursor s).buf = s.buf := rfl
@[simp] theorem resetCursor_chA (s : State) : (resetCursor s).chA = s.chA := rfl
@[simp] theorem resetCursor_chB (s : State) : (resetCursor s).chB = s.chB := rfl
@[simp] theorem resetCursor_rxFull (s : State) : (resetCursor s).rxFull = s.rxFull := rfl
@[simp] theorem resetCursor_rxByte (s : State) : (resetCursor s).rxByte = s.rxByte := rfl
@[simp] theorem resetCursor_seqKind (s : State) : (resetCursor s).seqKind = s.seqKind := rfl
@[simp] theorem resetCursor_seqIdx (s : State) : (resetCursor s).seqIdx = s.seqIdx := rfl
@[simp] theorem resetCursor_seqChan (s : State) : (resetCursor s).seqChan = s.seqChan := rfl
@[simp] theorem resetCursor_seqSample (s : State) : (resetCursor s).seqSample = s.seqSample := rfl
@[simp] theorem resetCursor_fault (s : State) : (resetCursor s).fault = s.fault := rfl
@[simp] theorem resetCursor_txlog (s : State) : (resetCursor s).txlog = s.txlog := rfl
@[simp] theorem resetCursor_script (s : State) : (resetCursor s).script = s.script := rfl
@[simp] theorem resetCursor_draws (s : State) : (resetCursor s).draws = s.draws := rfl
@[simp] theorem resetCursor_resets (s : State) : (resetCursor s).resets = s.resets := rfl

@[simp] theorem send_cfg (b : Byte) (s : State) : (send b s).cfg = s.cfg := rfl
@[simp] theorem send_mode (b : Byte) (s : State) : (send b s).mode = s.mode := rfl
@[simp] theorem send_cursor (b : Byte) (s : State) : (send b s).cursor = s.cursor := rfl
@[simp] theorem send_buf (b : Byte) (s : State) : (send b s).buf = s.buf := rfl
@[simp] theorem send_chA (b : Byte) (s : State) : (send b s).chA = s.chA := rfl
@[simp] theorem send_chB (b : Byte) (s : State) : (send b s).chB = s.chB := rfl
@[simp] theorem send_rxFull (b : Byte) (s : State) : (send b s).rxFull = s.rxFull := rfl
@[simp] theorem send_rxByte (b : Byte) (s : State) : (send b s).rxByte = s.rxByte := rfl
@[simp] theorem send_seqKind (b : Byte) (s : State) : (send b s).seqKind = s.seqKind := rfl
@[simp] theorem send_seqIdx (b : Byte) (s : State) : (send b s).seqIdx = s.seqIdx := rfl
@[simp] theorem send_seqChan (b : Byte) (s : State) : (send b s).seqChan = s.seqChan := rfl
@[simp] theorem send_seqSample (b : Byte) (s : State) : (send b s).seqSample = s.seqSample := rfl
@[simp] theorem send_fault (b : Byte) (s : State) : (send b s).fault = s.fault := rfl
@[simp] theorem send_txlog (b : Byte) (s : State) : (send b s).txlog = s.txlog ++ [b] := rfl
@[simp] theorem send_script (b : Byte) (s : State) : (send b s).script = s.script := rfl
@[simp] theorem send_draws (b : Byte) (s : State) : (send b s).draws = s.draws := rfl
@[simp] theorem send_resets (b : Byte) (s : State) : (send b s).resets = s.resets := rfl

@[simp] theorem rxArrive_cfg (b : Byte) (s : State) : (rxArrive b s).cfg = s.cfg := rfl
@[simp] theorem rxArrive_mode (b : Byte) (s : State) : (rxArrive b s).mode = s.mode := rfl
@[simp] theorem rxArrive_cursor (b : Byte) (s : State) : (rxArrive b s).cursor = s.cursor := rfl
@[simp] theorem rxArrive_buf (b : Byte) (s : State) : (rxArrive b s).buf = s.buf := rfl
@[simp] theorem rxArrive_chA (b : Byte) (s : State) : (rxArrive b s).chA = s.chA := rfl
@[simp] theorem rxArrive_chB (b : Byte) (s : State) : (rxArrive b s).chB = s.chB := rfl
@[simp] theorem rxArrive_rxFull (b : Byte) (s : State) : (rxArrive b s).rxFull = true := rfl
@[simp] theorem rxArrive_rxByte (b : Byte) (s : State) : (rxArrive b s).rxByte = b := rfl
@[simp] theorem rxArrive_seqKind (b : Byte) (s : State) : (rxArrive b s).seqKind = s.seqKind := rfl
@[simp] theorem rxArrive_seqIdx (b : Byte) (s : State) : (rxArrive b s).seqIdx = s.seqIdx := rfl
@[simp] theorem rxArrive_seqChan (b : Byte) (s : State) : (rxArrive b s).seqChan = s.seqChan := rfl
@[simp] theorem rxArrive_seqSample (b : Byte) (s : State) : (rxArrive b s).seqSample = s.seqSample := rfl
@[simp] theorem rxArrive_fault (b : Byte) (s : State) : (rxArrive b s).fault = s.fault := rfl
@[simp] theorem rxArrive_txlog (b : Byte) (s : State) : (rxArrive b s).txlog = s.txlog := rfl
@[simp] theorem rxArrive_script (b : Byte) (s : State) : (rxArrive b s).script = s.script := rfl
@[simp] theorem rxArrive_draws (b : Byte) (s : State) : (rxArrive b s).draws = s.draws := rfl
@[simp] theorem rxArrive_resets (b : Byte) (s : State) : (rxArrive b s).resets = s.resets := rfl

@[simp] theorem burstFull_cfg (s : State) : (burstFull s).cfg = s.cfg := rfl
@[simp] theorem burstFull_mode (s : State) : (burstFull s).mode = CaptureMode.bits .idle := rfl
@[simp] theorem burstFull_cursor (s : State) : (burstFull s).cursor = s.cursor := rfl
@[simp] theorem burstFull_buf (s : State) : (burstFull s).buf = s.buf := rfl
@[simp] theorem burstFull_chA (s : State) : (burstFull s).chA = s.chA := rfl
@[simp] theorem burstFull_chB (s : State) : (burstFull s).chB = s.chB := rfl
@[simp] theorem burstFull_rxFull (s : State) : (burstFull s).rxFull = s.rxFull := rfl
@[simp] theorem burstFull_rxByte (s : State) : (burstFull s).rxByte = s.rxByte := rfl
@[simp] theorem burstFull_seqKind (s : State) : (burstFull s).seqKind = JobKind.bits .drain := rfl
@[simp] theorem burstFull_seqIdx (s : State) : (burstFull s).seqIdx = 0 := rfl
@[simp] theorem burstFull_seqChan (s : State) : (burstFull s).seqChan = s.seqChan := rfl
@[simp] theorem burstFull_seqSample (s : State) : (burstFull s).seqSample = s.seqSample := rfl
@[simp] theorem burstFull_fault (s : State) : (burstFull s).fault = s.fault := rfl
@[simp] theorem burstFull_txlog (s : State) : (burstFull s).txlog = s.txlog := rfl
@[simp] theorem burstFull_script (s : State) : (burstFull s).script = s.script := rfl
@[simp] theorem burstFull_draws (s : State) : (burstFull s).draws = s.draws := rfl
@[simp] theorem burstFull_resets (s : State) : (burstFull s).resets = s.resets := rfl

@[simp] theorem setCh_cfg (s : State) (c : Chan) (u : ChanUnit) : (s.setCh c u).cfg = s.cfg := by
  cases c <;> rfl
@[simp] theorem setCh_mode (s : State) (c : Chan) (u : ChanUnit) : (s.setCh c u).mode = s.mode := by
  cases c <;> rfl
@[simp] theorem setCh_cursor (s : State) (c : Chan) (u : ChanUnit) : (s.setCh c u).cursor = s.cursor := by
  cases c <;> rfl
@[simp] theorem setCh_buf (s : State) (c : Chan) (u : ChanUnit) : (s.setCh c u).buf = s.buf := by
  cases c <;> rfl
@[simp] theorem setCh_rxFull (s : State) (c : Chan) (u : ChanUnit) : (s.setCh c u).rxFull = s.rxFull := by
  cases c <;> rfl
@[simp] theorem setCh_rxByte (s : State) (c : Chan) (u : ChanUnit) : (s.setCh c u).rxByte = s.rxByte := by
  cases c <;> rfl
@[simp] theorem setCh_seqKind (s : State) (c : Chan) (u : ChanUnit) : (s.setCh c u).seqKind = s.seqKind := by
  cases c <;> rfl
@[simp] theorem setCh_seqIdx (s : State) (c : Chan) (u : ChanUnit) : (s.setCh c u).seqIdx = s.seqIdx := by
  cases c <;> rfl
@[simp] theorem setCh_seqChan (s : State) (c : Chan) (u : ChanUnit) : (s.setCh c u).seqChan = s.seqChan := by
  cases c <;> rfl
@[simp] theorem setCh_seqSample (s : State) (c : Chan) (u : ChanUnit) : (s.setCh c u).seqSample = s.seqSample := by
  cases c <;> rfl
@[simp] theorem setCh_fault (s : State) (c : Chan) (u : ChanUnit) : (s.setCh c u).fault = s.fault := by
  cases c <;> rfl
@[simp] theorem setCh_txlog (s : State) (c : Chan) (u : ChanUnit) : (s.setCh c u).txlog = s.txlog := by
  cases c <;> rfl
@[simp] theorem setCh_script (s : State) (c : Chan) (u : ChanUnit) : (s.setCh c u).script = s.script := by
  cases c <;> rfl
@[simp] theorem setCh_draws (s : State) (c : Chan) (u : ChanUnit) : (s.setCh c u).draws = s.draws := by
  cases c <;> rfl
@[simp] theorem setCh_resets (s : State) (c : Chan) (u : ChanUnit) : (s.setCh c u).resets = s.resets := by
  cases c <;> rfl

@[simp] theorem setSt_cfg (s : State) (c : Chan) (st : UnitState) : (s.setSt c st).cfg = s.cfg := by
  cases c <;> rfl
@[simp] theorem setSt_mode (s : State) (c : Chan) (st : UnitState) : (s.setSt c st).mode = s.mode := by
  cases c <;> rfl
@[simp] theorem setSt_cursor (s : State) (c : Chan) (st : UnitState) : (s.setSt c st).cursor = s.cursor := by
  cases c <;> rfl
@[simp] theorem setSt_buf (s : State) (c : Chan) (st : UnitState) : (s.setSt c st).buf = s.buf := by
  cases c <;> rfl
@[simp] theorem setSt_rxFull (s : State) (c : Chan) (st : UnitState) : (s.setSt c st).rxFull = s.rxFull := by
  cases c <;> rfl
@[simp] theorem setSt_rxByte (s : State) (c : Chan) (st : UnitState) : (s.setSt c st).rxByte = s.rxByte := by
  cases c <;> rfl
@[simp] theorem setSt_seqKind (s : State) (c : Chan) (st : UnitState) : (s.setSt c st).seqKind = s.seqKind := by
  cases c <;> rfl
@[simp] theorem setSt_seqIdx (s : State) (c : Chan) (st : UnitState) : (s.setSt c st).seqIdx = s.seqIdx := by
  cases c <;> rfl
@[simp] theorem setSt_seqChan (s : State) (c : Chan) (st : UnitState) : (s.setSt c st).seqChan = s.seqChan := by
  cases c <;> rfl
@[simp] theorem setSt_seqSample (s : State) (c : Chan) (st : UnitState) : (s.setSt c st).seqSample = s.seqSample := by
  cases c <;> rfl
@[simp] theorem setSt_fault (s : State) (c : Chan) (st : UnitState) : (s.setSt c st).fault = s.fault := by
  cases c <;> rfl
@[simp] theorem setSt_txlog (s : State) (c : Chan) (st : UnitState) : (s.setSt c st).txlog = s.txlog := by
  cases c <;> rfl
@[simp] theorem setSt_script (s : State) (c : Chan) (st : UnitState) : (s.setSt c st).script = s.script := by
  cases c <;> rfl
@[simp] theorem setSt_draws (s : State) (c : Chan) (st : UnitState) : (s.setSt c st).draws = s.draws := by
  cases c <;> rfl
@[simp] theorem setSt_resets (s : State) (c : Chan) (st : UnitState) : (s.setSt c st).resets = s.resets := by
  cases c <;> rfl

@[simp] theorem ch_A (s : State) : s.ch .A = s.chA := rfl
@[simp] theorem ch_B (s : State) : s.ch .B = s.chB := rfl

@[simp] theorem setCh_ch_same (s : State) (c : Chan) (u : ChanUnit) : (s.setCh c u).ch c = u := by
  cases c <;> rfl

theorem setCh_ch_other (s : State) {c c' : Chan} (u : ChanUnit) (h : c' ≠ c) :
    (s.setCh c u).ch c' = s.ch c' := by
  cases c <;> cases c' <;> first | rfl | exact absurd rfl h

@[simp] theorem setSt_ch_same (s : State) (c : Chan) (st : UnitState) :
    (s.setSt c st).ch c = { s.ch c with st := st } := setCh_ch_same s c _

theorem setSt_ch_other (s : State) {c c' : Chan} (st : UnitState) (h : c' ≠ c) :
    (s.setSt c st).ch c' = s.ch c' := setCh_ch_other s _ h

/-- What a channel's unit is after one unit's state is replaced. -/
theorem setSt_ch (s : State) (c c' : Chan) (st : UnitState) :
    (s.setSt c st).ch c' = if c' = c then { s.ch c with st := st } else s.ch c' := by
  by_cases h : c' = c
  · subst h; simp
  · simp [h, setSt_ch_other]

@[simp] theorem takeMove_cfg (s : State) : s.takeMove.cfg = s.cfg := by
  unfold State.takeMove; split <;> rfl
@[simp] theorem takeMove_mode (s : State) : s.takeMove.mode = s.mode := by
  unfold State.takeMove; split <;> rfl
@[simp] theorem takeMove_cursor (s : State) : s.takeMove.cursor = s.cursor := by
  unfold State.takeMove; split <;> rfl
@[simp] theorem takeMove_buf (s : State) : s.takeMove.buf = s.buf := by
  unfold State.takeMove; split <;> rfl
@[simp] theorem takeMove_chA (s : State) : s.takeMove.chA = s.chA := by
  unfold State.takeMove; split <;> rfl
@[simp] theorem takeMove_chB (s : State) : s.takeMove.chB = s.chB := by
  unfold State.takeMove; split <;> rfl
@[simp] theorem takeMove_rxFull (s : State) : s.takeMove.rxFull = s.rxFull := by
  unfold State.takeMove; split <;> rfl
@[simp] theorem takeMove_rxByte (s : State) : s.takeMove.rxByte = s.rxByte := by
  unfold State.takeMove; split <;> rfl
@[simp] theorem takeMove_seqKind (s : State) : s.takeMove.seqKind = s.seqKind := by
  unfold State.takeMove; split <;> rfl
@[simp] theorem takeMove_seqIdx (s : State) : s.takeMove.seqIdx = s.seqIdx := by
  unfold State.takeMove; split <;> rfl
@[simp] theorem takeMove_seqChan (s : State) : s.takeMove.seqChan = s.seqChan := by
  unfold State.takeMove; split <;> rfl
@[simp] theorem takeMove_seqSample (s : State) : s.takeMove.seqSample = s.seqSample := by
  unfold State.takeMove; split <;> rfl
@[simp] theorem takeMove_fault (s : State) : s.takeMove.fault = s.fault := by
  unfold State.takeMove; split <;> rfl
@[simp] theorem takeMove_txlog (s : State) : s.takeMove.txlog = s.txlog := by
  unfold State.takeMove; split <;> rfl
@[simp] theorem takeMove_resets (s : State) : s.takeMove.resets = s.resets := by
  unfold State.takeMove; split <;> rfl

/-- Taking a move off a script leaves the rest of it. -/
theorem takeMove_cons {s : State} {m : Move} {ms : List Move} (h : s.script = m :: ms) :
    s.nextMove = m ∧ s.takeMove = { s with script := ms } := by
  simp [State.nextMove, State.takeMove, h]

/-- With no script, the move is the next free one. -/
theorem takeMove_nil {s : State} (h : s.script = []) :
    s.nextMove = Config.freeMove s.draws ∧ s.takeMove = { s with draws := s.draws + 1 } := by
  simp [State.nextMove, State.takeMove, h]

end Sys2Proof.Machine
end

