-- ==== Sys2Proof/Laws/Ops.lean ====
section
/-! SUPPORT. What each shared operation can do, said once: the provers cite these instead of unfolding the
operations. -/

namespace Sys2Proof.Machine

open Sys2Proof

@[simp] theorem Res.bind_ok {α β : Type} (a : α) (s : State) (f : α → State → Res β) :
    (Res.ok a s).bind f = f a s := rfl
@[simp] theorem Res.bind_raised {α β : Type} (s : State) (f : α → State → Res β) :
    (Res.raised s : Res α).bind f = .raised s := rfl
@[simp] theorem Res.state_ok {α : Type} (a : α) (s : State) : (Res.ok a s).state = s := rfl
@[simp] theorem Res.state_raised {α : Type} (s : State) : (Res.raised s : Res α).state = s := rfl
@[simp] theorem Res.answer_ok (s : State) : (Res.ok () s).answer = .next s := rfl
@[simp] theorem Res.answer_raised (s : State) : (Res.raised s : Res Unit).answer = .next s := rfl

/-- A step's answer is the state its pseudocode leaves. -/
theorem Res.answer_eq (r : Res Unit) : r.answer = .next r.state := rfl

@[simp] theorem modeOf_bits (m : CaptureMode) : modeOf m.bits = some m := by cases m <;> rfl
@[simp] theorem jobOf_bits (k : JobKind) : jobOf k.bits = some k := by cases k <;> rfl

/-- A mode register that is not the reserved value holds a mode's bits. -/
theorem modeOf_eq_some {m : BitVec 2} {c : CaptureMode} : modeOf m = some c ↔ m = c.bits := by
  constructor
  · intro h
    unfold modeOf at h
    repeat' split at h
    all_goals (cases c <;> simp_all [CaptureMode.bits])
  · rintro rfl; simp

theorem modeOf_eq_none {m : BitVec 2} : modeOf m = none ↔ m = 0b11#2 := by
  revert m; decide

/-- A job register that is not reserved holds a kind's bits. -/
theorem jobOf_eq_some {b : BitVec 3} {k : JobKind} : jobOf b = some k ↔ b = k.bits := by
  constructor
  · intro h
    unfold jobOf at h
    repeat' split at h
    all_goals (cases k <;> simp_all [JobKind.bits])
  · rintro rfl; simp

theorem jobOf_eq_none {b : BitVec 3} : jobOf b = none ↔ b = 0b110#3 ∨ b = 0b111#3 := by
  revert b; decide

/-- Channel A is always enabled; channel B exactly where `DUAL` is true (R23). -/
theorem mem_enabled (cfg : Config) (c : Chan) : c ∈ cfg.enabled ↔ c = .A ∨ cfg.dual = true := by
  unfold Config.enabled
  cases c <;> cases cfg.dual <;> simp

theorem isEnabled_iff (s : State) (c : Chan) : s.isEnabled c = true ↔ c ∈ s.cfg.enabled := by
  simp [State.isEnabled]

/-- The engine is ready: no job runs and no fault is recorded. -/
theorem ready_iff (s : State) : s.ready = true ↔ s.seqKind = JobKind.bits .noJob ∧ s.fault = none := by
  simp [State.ready, State.busy, State.healthy]

theorem memRead_ok {s : State} {i : Nat} (h : i < s.cfg.capacity) : memRead i s = .ok (s.bufWord i) s := by
  simp [memRead, h]

theorem memRead_overrun {s : State} {i : Nat} (h : s.cfg.capacity ≤ i) :
    memRead i s = .raised { s with fault := some .overrun } := by
  simp [memRead, h, raise]

theorem memWrite_ok {s : State} {i : Nat} (v : TaggedWord) (h : i < s.cfg.capacity) :
    memWrite i v s = .ok () { s with buf := Memory.write s.buf i v } := by
  simp [memWrite, h]

theorem memWrite_overrun {s : State} {i : Nat} (v : TaggedWord) (h : s.cfg.capacity ≤ i) :
    memWrite i v s = .raised { s with fault := some .overrun } := by
  simp [memWrite, h, raise]

theorem append_ok {s : State} (w : TaggedWord) (h : s.cursor < s.cfg.capacity) :
    append w s = .ok (s.cursor + 1 == s.cfg.capacity)
      { s with buf := Memory.write s.buf s.cursor w, cursor := s.cursor + 1 } := by
  simp [append, memWrite_ok, h, State.full]

theorem append_overrun {s : State} (w : TaggedWord) (h : s.cfg.capacity ≤ s.cursor) :
    append w s = .raised { s with fault := some .overrun } := by
  simp [append, h, raise]

theorem arm_ok {s : State} {c : Chan} (h : c ∈ s.cfg.enabled) : arm c s = .ok () (s.setSt c .conv) := by
  simp [arm, (isEnabled_iff s c).2 h]

theorem arm_disabled {s : State} {c : Chan} (h : c ∉ s.cfg.enabled) :
    arm c s = .raised { s with fault := some .disabledChannel } := by
  simp [arm, raise, State.isEnabled, h]

theorem disarm_ok {s : State} {c : Chan} (h : c ∈ s.cfg.enabled) : disarm c s = .ok () (s.setSt c .off) := by
  simp [disarm, (isEnabled_iff s c).2 h]

theorem disarm_disabled {s : State} {c : Chan} (h : c ∉ s.cfg.enabled) :
    disarm c s = .raised { s with fault := some .disabledChannel } := by
  simp [disarm, raise, State.isEnabled, h]

/-- Every enabled channel's unit state replaced; channel B is enabled exactly where `DUAL` is true (R23). -/
def setAll (st : UnitState) (s : State) : State :=
  { s with
    chA := { s.chA with st := st }
    chB := if s.cfg.dual then { s.chB with st := st } else s.chB }

/-- Arming every channel of `E` never raises. -/
theorem armAll_ok (s : State) : armAll s = .ok () (setAll .conv s) := by
  unfold armAll setAll Config.enabled
  cases h : s.cfg.dual <;> simp [forEach, arm, State.isEnabled, Config.enabled, h, State.setSt, State.setCh]

/-- Disarming every channel of `E` never raises. -/
theorem disarmAll_ok (s : State) : disarmAll s = .ok () (setAll .off s) := by
  unfold disarmAll setAll Config.enabled
  cases h : s.cfg.dual <;> simp [forEach, disarm, State.isEnabled, Config.enabled, h, State.setSt, State.setCh]

/-- What `State.bufWord` reads after a write: the word there, and every other word as before. -/
theorem bufWord_write (s : State) (i j : Nat) (v : TaggedWord) :
    ({ s with buf := Memory.write s.buf i v } : State).bufWord j = if j = i then v else s.bufWord j := by
  by_cases h : j = i
  · subst h; simp [State.bufWord]
  · simp [State.bufWord, h, Memory.read_write_other]

end Sys2Proof.Machine
end

