-- ==== Sys2Proof/Laws/Engine.lean ====
section
/-! SUPPORT. What Emit, Finish and the fetch of a Dispatch can do, said once. -/

namespace Sys2Proof.Machine

open Sys2Proof

/-- Emit while bytes are left sends the job's byte and counts it. -/
theorem emit_sends {s : State} {k : JobKind} {b : Byte} (hf : s.fault = none) (hk : jobOf s.seqKind = some k)
    (hi : s.seqIdx < k.len s.cfg) (hb : jobByte k s.seqIdx s = some (.ok b s)) :
    emit s = { s with txlog := s.txlog ++ [b], seqIdx := s.seqIdx + 1 } := by
  simp [emit, State.healthy, hf, hk, emitJob, hi, hb, emitByte, send]

/-- Emit with no byte left changes nothing. -/
theorem emit_done {s : State} {k : JobKind} (hk : jobOf s.seqKind = some k) (hi : k.len s.cfg ≤ s.seqIdx) :
    emit s = s := by
  unfold emit
  split <;> simp [hk, emitJob, hi]

/-- Emit of a reserved job kind raises BAD_SEQ. -/
theorem emit_reserved {s : State} (hf : s.fault = none) (hk : jobOf s.seqKind = none) :
    emit s = { s with fault := some .badSeq } := by
  simp [emit, State.healthy, hf, hk, raise]

theorem emit_faulted {s : State} (hf : s.fault ≠ none) : emit s = s := by
  cases h : s.fault with
  | none => exact absurd h hf
  | some f => simp [emit, State.healthy, h]

theorem finish_faulted {s : State} (hf : s.fault ≠ none) : finish s = s := by
  cases h : s.fault with
  | none => exact absurd h hf
  | some f => simp [finish, State.healthy, h]

/-- Finish at the end of a job runs the post-action of its kind. -/
theorem finish_runs {s : State} {k : JobKind} (hf : s.fault = none) (hk : jobOf s.seqKind = some k)
    (hi : s.seqIdx = k.len s.cfg) : finish s = (finishJob k s).state := by
  simp [finish, State.healthy, hf, hk, hi]

/-- Finish before the end of a job changes nothing. -/
theorem finish_early {s : State} {k : JobKind} (hk : jobOf s.seqKind = some k) (hi : s.seqIdx ≠ k.len s.cfg) :
    finish s = s := by
  unfold finish
  split <;> simp [hk, hi]

/-- The bits of an event word: the reading below bit 12, the channel in bit 12 (R86). -/
theorem eventWord_bit (c : Chan) (d : Sample) (i : Nat) :
    (eventWord c d).getLsbD i = if i < 12 then d.getLsbD i else c.bit.getLsbD (i - 12) := by
  have h := BitVec.getLsbD_append (x := c.bit) (y := d) (i := i)
  simpa [eventWord] using h

/-- The channel and the reading of an event word come back from it. -/
@[simp] theorem eventChan_eventWord (c : Chan) (d : Sample) : eventChan (eventWord c d) = c := by
  have h : (eventWord c d).extractLsb' 12 1 = c.bit := by
    apply BitVec.eq_of_getLsbD_eq
    intro i hi
    obtain rfl : i = 0 := by omega
    rw [BitVec.getLsbD_extractLsb', eventWord_bit]
    simp
  cases c <;> simp [eventChan, h, Chan.bit]

@[simp] theorem eventSample_eventWord (c : Chan) (d : Sample) : eventSample (eventWord c d) = d := by
  apply BitVec.eq_of_getLsbD_eq
  intro i hi
  rw [eventSample, BitVec.getLsbD_extractLsb', eventWord_bit]
  simp [hi]

/-- A Dispatch of an event that is not an enabled step changes nothing. -/
theorem dispatch_disabled {s : State} {e : Event} (h : s.enables (.dispatch e) = false) :
    dispatch e s = .next s := by
  simp [dispatch, fetch, h]

/-- A Dispatch of the held byte runs the instruction it decodes to. -/
theorem dispatch_command {s : State} (h : s.enables (.dispatch .cmd) = true) :
    dispatch .cmd s = exec (decodeCommand s.rxByte) s := by
  simp [dispatch, fetch, h, decode]

/-- A Dispatch of a completion runs the completion of the latched reading. -/
theorem dispatch_completion {s : State} {c : Chan} (h : s.enables (.dispatch (.cpl c)) = true) :
    dispatch (.cpl c) s = exec (Instr.cpl c (s.ch c).data) s := by
  simp [dispatch, fetch, h, decode, decodeEvent, onComplete]

end Sys2Proof.Machine
end

