-- ==== Sys2Proof/Laws/Effects.lean ====
section
/-! SUPPORT. Everything a command, a completion and a move can do, said once as inversion lemmas: a proof about
all moves is a case analysis of `move_effect` and unfolds no operation. -/

namespace Sys2Proof.Machine

open Sys2Proof

/-! ## Commands -/

/-- The job a byte other than STREAM, STOP and BURST starts (R172, R173, R176, R177, R179). -/
inductive PlainJob (b : Byte) : JobKind → Prop
  | speed : b = 0x31#8 → PlainJob b .speed
  | vcc : b = 0x36#8 → PlainJob b .vcc
  | none : b ≠ 0x31#8 → b ≠ 0x33#8 → b ≠ 0x34#8 → b ≠ 0x36#8 → b ≠ 0x37#8 → PlainJob b .cmd0

/-- What a Dispatch of byte `b` leaves. -/
inductive CommandEffect (b : Byte) (s : State) : State → Prop
  | plain (k : JobKind) : PlainJob b k → CommandEffect b s (startJob k s)
  | stream : b = 0x33#8 → CommandEffect b s (startJob .cmd0 (setMode .cont (setAll .conv s)))
  | stop : b = 0x34#8 → CommandEffect b s (startJob .cmd0 (setMode .idle (setAll .off s)))
  | burst : b = 0x37#8 → CommandEffect b s (startJob .cmd0 (setAll .conv (setMode .burst (resetCursor s))))

/-- If the instruction of byte `b` gives a next state, it is one of these. -/
theorem exec_command_effect {b : Byte} {s t : State} (h : exec (decodeCommand b) s = .next t) :
    CommandEffect b s t := by
  unfold decodeCommand at h
  split at h
  · cases h; exact .plain _ (.speed ‹_›)
  split at h
  · cases h; exact .plain _ (.none (by simp [*]) (by simp [*]) (by simp [*]) (by simp [*]) (by simp [*]))
  split at h
  · simp only [exec, execStream, armAll_ok, Res.bind_ok, Res.answer_ok] at h
    cases h; exact .stream ‹_›
  split at h
  · simp only [exec, execStop, disarmAll_ok, Res.bind_ok, Res.answer_ok] at h
    cases h; exact .stop ‹_›
  split at h
  · cases h; exact .plain _ (.none (by simp [*]) (by simp [*]) (by simp [*]) (by simp [*]) (by simp [*]))
  split at h
  · cases h; exact .plain _ (.vcc ‹_›)
  split at h
  · simp only [exec, execBurst, armAll_ok, Res.bind_ok, Res.answer_ok] at h
    cases h; exact .burst ‹_›
  · cases h; exact .plain _ (.none ‹_› ‹_› ‹_› ‹_› ‹_›)

/-! ## Completions -/

/-- The state with the tagged word of a sample appended (R125, R141). -/
def appended (c : Chan) (d : Sample) (s : State) : State :=
  { s with buf := Memory.write s.buf s.cursor (tagWord c d), cursor := s.cursor + 1 }

/-- What a completion of channel `c` with reading `d` leaves (R121 to R126). -/
inductive CompletionEffect (c : Chan) (d : Sample) (s : State) : State → Prop
  | idle : s.mode = 0b00#2 → CompletionEffect c d s (s.setSt c .off)
  | cont : s.mode = 0b01#2 →
      CompletionEffect c d s (startJob .cframe { s.setSt c .off with seqSample := d, seqChan := c })
  | store : s.mode = 0b10#2 → s.cursor + 1 < s.cfg.capacity → c ∈ s.cfg.enabled →
      CompletionEffect c d s ((appended c d s).setSt c .conv)
  | fill : s.mode = 0b10#2 → s.cursor + 1 = s.cfg.capacity →
      CompletionEffect c d s (burstFull ((appended c d s).setSt c .off))
  | overrun : s.mode = 0b10#2 → s.cfg.capacity ≤ s.cursor →
      CompletionEffect c d s { s.setSt c .off with fault := some .overrun }
  | disabled : s.mode = 0b10#2 → s.cursor + 1 < s.cfg.capacity → c ∉ s.cfg.enabled →
      CompletionEffect c d s { (appended c d s).setSt c .off with fault := some .disabledChannel }
  | badMode : s.mode = 0b11#2 → CompletionEffect c d s { s.setSt c .off with fault := some .badMode }

/-- A mode register holds one of four values (R24). -/
theorem mode_values (m : BitVec 2) : m = 0b00#2 ∨ m = 0b01#2 ∨ m = 0b10#2 ∨ m = 0b11#2 := by
  revert m; decide

/-- If a completion gives a next state, it is one of these. -/
theorem exec_completion_effect {s t : State} {c : Chan} {d : Sample} (h : exec (Instr.cpl c d) s = .next t) :
    CompletionEffect c d s t := by
  have ht : (handleCompletion c d s).state = t := by cases c <;> (cases h; rfl)
  subst ht
  clear h
  unfold handleCompletion
  rcases mode_values s.mode with hm | hm | hm | hm
  · simpa [routeSample, onComplete, hm, modeOf, cplIdle] using CompletionEffect.idle (c := c) (d := d) hm
  · simpa [routeSample, onComplete, hm, modeOf, cplCont] using CompletionEffect.cont (c := c) (d := d) hm
  · have hr : routeSample c d (onComplete c s).2 = cplBurst c d (onComplete c s).2 := by
      simp [routeSample, onComplete, hm, modeOf]
    rw [hr, cplBurst]
    by_cases hfull : s.cfg.capacity ≤ s.cursor
    · rw [append_overrun _ (by simpa [onComplete] using hfull)]
      exact .overrun hm hfull
    rw [append_ok _ (by simp [onComplete]; omega), Res.bind_ok]
    by_cases hlast : s.cursor + 1 = s.cfg.capacity
    · rw [if_pos (by simp [onComplete, hlast])]
      have := CompletionEffect.fill (c := c) (d := d) hm hlast
      cases c <;> exact this
    · rw [if_neg (by simp [onComplete, hlast])]
      by_cases hc : c ∈ s.cfg.enabled
      · rw [arm_ok (by simpa [onComplete] using hc)]
        have := CompletionEffect.store (c := c) (d := d) hm (by omega) hc
        cases c <;> exact this
      · rw [arm_disabled (by simpa [onComplete] using hc)]
        have := CompletionEffect.disabled (c := c) (d := d) hm (by omega) hc
        cases c <;> exact this
  · simpa [routeSample, onComplete, hm, modeOf, raise] using CompletionEffect.badMode (c := c) (d := d) hm

/-! ## Emit and Finish -/

/-- The kinds that send bytes (R157). -/
def JobKind.sends : JobKind → Bool
  | .cframe | .speed | .vcc | .drain => true
  | .noJob | .cmd0 => false

/-- Inside a job's length its next byte is known, and no index is out of range (R156). -/
theorem jobByte_ok {s : State} {k : JobKind} (h : s.seqIdx < k.len s.cfg) :
    k.sends = true ∧ ∃ b, jobByte k s.seqIdx s = some (.ok b s) := by
  cases k with
  | noJob => simp [JobKind.len] at h
  | cmd0 => simp [JobKind.len] at h
  | drain =>
    simp only [JobKind.len] at h
    exact ⟨rfl, _, by rw [jobByte, memRead_ok (by omega)]; rfl⟩
  | cframe => exact ⟨rfl, _, rfl⟩
  | speed => exact ⟨rfl, _, rfl⟩
  | vcc => exact ⟨rfl, _, rfl⟩

/-- What Emit leaves (R157). -/
inductive EmitEffect (s : State) : State → Prop
  | same : s.enables .emit = false → EmitEffect s s
  | sent (k : JobKind) (b : Byte) : s.fault = none → s.seqKind = k.bits → k.sends = true →
      s.seqIdx < k.len s.cfg → jobByte k s.seqIdx s = some (.ok b s) →
      EmitEffect s { s with txlog := s.txlog ++ [b], seqIdx := s.seqIdx + 1 }
  | badSeq : s.fault = none → s.seqKind = 0b110#3 ∨ s.seqKind = 0b111#3 →
      EmitEffect s { s with fault := some .badSeq }

theorem emit_effect (s : State) : EmitEffect s (emit s) := by
  by_cases hf : s.fault = none
  swap
  · rw [emit_faulted hf]; exact .same (by simp [State.enables, State.healthy, hf])
  cases hk : jobOf s.seqKind with
  | none => rw [emit_reserved hf hk]; exact .badSeq hf (jobOf_eq_none.1 hk)
  | some k =>
    by_cases hi : s.seqIdx < k.len s.cfg
    · obtain ⟨hs, b, hb⟩ := jobByte_ok hi
      rw [emit_sends hf hk hi hb]
      exact .sent k b hf (jobOf_eq_some.1 hk) hs hi hb
    · rw [emit_done hk (by omega)]
      exact .same (by simp [State.enables, hk]; omega)

/-- What Finish leaves (R124, R145, R180). -/
inductive FinishEffect (s : State) : State → Prop
  | same : s.enables .finish = false → FinishEffect s s
  | command (k : JobKind) : s.fault = none → s.seqKind = k.bits → s.seqIdx = k.len s.cfg →
      k.isCommand = true → FinishEffect s (endJob (clearInbound s))
  | drain : s.fault = none → s.seqKind = JobKind.bits .drain → s.seqIdx = 2 * s.cfg.capacity →
      FinishEffect s (endJob s)
  | frameIdle : s.fault = none → s.seqKind = JobKind.bits .cframe → s.seqIdx = 2 → s.mode = 0b00#2 →
      FinishEffect s (endJob s)
  | frameRearm : s.fault = none → s.seqKind = JobKind.bits .cframe → s.seqIdx = 2 →
      s.mode = 0b01#2 ∨ s.mode = 0b10#2 → s.seqChan ∈ s.cfg.enabled →
      FinishEffect s (endJob (s.setSt s.seqChan .conv))
  | disabled : s.fault = none → s.seqKind = JobKind.bits .cframe → s.seqIdx = 2 →
      s.mode = 0b01#2 ∨ s.mode = 0b10#2 → s.seqChan ∉ s.cfg.enabled →
      FinishEffect s { s with fault := some .disabledChannel }
  | badMode : s.fault = none → s.seqKind = JobKind.bits .cframe → s.seqIdx = 2 → s.mode = 0b11#2 →
      FinishEffect s { s with fault := some .badMode }

/-- What the end of a continuous frame leaves (R124). -/
theorem finishFrame_effect {s : State} (hf : s.fault = none) (hk : s.seqKind = JobKind.bits .cframe)
    (hi : s.seqIdx = 2) : FinishEffect s (finishFrame s).state := by
  rcases mode_values s.mode with hm | hm | hm | hm
  · simpa [finishFrame, hm, modeOf] using FinishEffect.frameIdle hf hk hi hm
  · by_cases hc : s.seqChan ∈ s.cfg.enabled
    · simpa [finishFrame, hm, modeOf, arm_ok hc] using FinishEffect.frameRearm hf hk hi (.inl hm) hc
    · simpa [finishFrame, hm, modeOf, arm_disabled hc] using FinishEffect.disabled hf hk hi (.inl hm) hc
  · by_cases hc : s.seqChan ∈ s.cfg.enabled
    · simpa [finishFrame, hm, modeOf, arm_ok hc] using FinishEffect.frameRearm hf hk hi (.inr hm) hc
    · simpa [finishFrame, hm, modeOf, arm_disabled hc] using FinishEffect.disabled hf hk hi (.inr hm) hc
  · simpa [finishFrame, hm, modeOf, raise] using FinishEffect.badMode hf hk hi hm

theorem finish_effect (s : State) : FinishEffect s (finish s) := by
  by_cases hf : s.fault = none
  swap
  · rw [finish_faulted hf]; exact .same (by simp [State.enables, State.healthy, hf])
  cases hk : jobOf s.seqKind with
  | none =>
    have : finish s = s := by simp [finish, hk]
    rw [this]; exact .same (by simp [State.enables, hk])
  | some k =>
    by_cases hi : s.seqIdx = k.len s.cfg
    swap
    · rw [finish_early hk hi]; exact .same (by simp [State.enables, hk, hi])
    have hb := jobOf_eq_some.1 hk
    rw [finish_runs hf hk hi]
    cases k with
    | noJob => exact .same (by simp [State.enables, State.busy, hb])
    | cmd0 => exact .command _ hf hb hi rfl
    | speed => exact .command _ hf hb hi rfl
    | vcc => exact .command _ hf hb hi rfl
    | drain => exact .drain hf hb hi
    | cframe => exact finishFrame_effect hf hb hi

/-! ## Moves -/

/-- When a held byte may be dispatched (R171). -/
theorem enables_command {s : State} : s.enables (.dispatch .cmd) = true ↔
    s.seqKind = JobKind.bits .noJob ∧ s.fault = none ∧ s.rxFull = true := by
  simp only [State.enables, Bool.and_eq_true, ready_iff, State.pending]
  constructor
  · rintro ⟨⟨hk, hf⟩, hr, _⟩; exact ⟨hk, hf, hr⟩
  · rintro ⟨hk, hf, hr⟩
    exact ⟨⟨hk, hf⟩, hr, by simp [State.commandRunning, hk, JobKind.isCommand]⟩

/-- When a completion may be dispatched (R121). -/
theorem enables_completion {s : State} {c : Chan} : s.enables (.dispatch (.cpl c)) = true ↔
    s.seqKind = JobKind.bits .noJob ∧ s.fault = none ∧ (s.ch c).st = .done := by
  simp [State.enables, ready_iff, State.pending, and_assoc]

/-- What a move of any agent leaves (R12). -/
inductive MoveEffect (s : State) : Move → State → Prop
  | same (m : Move) : s.enables m = false → MoveEffect s m s
  | rxArrive (b : Byte) : MoveEffect s (.rxArrive b) { s with rxByte := b, rxFull := true }
  | convert (c : Chan) (d : Sample) : (s.ch c).st = .conv →
      MoveEffect s (.convert c d) (s.setCh c { st := .done, data := d })
  | command (t : State) : s.seqKind = JobKind.bits .noJob → s.fault = none → s.rxFull = true →
      CommandEffect s.rxByte s t → MoveEffect s (.dispatch .cmd) t
  | completion (c : Chan) (t : State) : s.seqKind = JobKind.bits .noJob → s.fault = none →
      (s.ch c).st = .done → CompletionEffect c (s.ch c).data s t → MoveEffect s (.dispatch (.cpl c)) t
  | emit (t : State) : EmitEffect s t → MoveEffect s .emit t
  | finish (t : State) : FinishEffect s t → MoveEffect s .finish t
  | reset : MoveEffect s .reset (applyReset s)

/-- If a move gives a next state, it is one of these. -/
theorem move_effect {s t : State} {m : Move} (h : act m s = .next t) : MoveEffect s m t := by
  cases m with
  | rxArrive b => cases h; exact .rxArrive b
  | convert c d =>
    cases h
    by_cases hc : (s.ch c).st = .conv
    · simpa [Machine.convert, hc] using MoveEffect.convert c d hc
    · simpa [Machine.convert, hc] using MoveEffect.same (.convert c d) (by simp [State.enables, hc])
  | dispatch e =>
    rw [act] at h
    by_cases he : s.enables (.dispatch e) = true
    swap
    · rw [dispatch_disabled (by simpa using he)] at h
      cases h; exact .same _ (by simpa using he)
    cases e with
    | cmd =>
      obtain ⟨hk, hf, hr⟩ := enables_command.1 he
      exact .command t hk hf hr (exec_command_effect (dispatch_command he ▸ h))
    | cpl c =>
      obtain ⟨hk, hf, hd⟩ := enables_completion.1 he
      exact .completion c t hk hf hd (exec_completion_effect (dispatch_completion he ▸ h))
  | emit => cases h; exact .emit _ (emit_effect s)
  | finish => cases h; exact .finish _ (finish_effect s)
  | reset => cases h; exact .reset

end Sys2Proof.Machine
end

