-- ==== Sys2Proof/Laws/PerInstr.lean ====
section
/-! SUPPORT. Per-instruction families: one lemma per constructor of `Instr`. -/

namespace Sys2Proof.Laws

open Sys2Proof

/-- The words of an instruction are an input of its format: one byte for a command (R81), two bytes with the
three bits above the event word zero for a completion (R86). -/
def EncodingIsInput.Statement (i : Instr) : Prop := ∃ r, rawOfBytes i.format (encode i) = .ok r

theorem EncodingIsInput.testSpeed : EncodingIsInput.Statement .testSpeed := ⟨_, rfl⟩
theorem EncodingIsInput.readOnce : EncodingIsInput.Statement .readOnce := ⟨_, rfl⟩
theorem EncodingIsInput.stream : EncodingIsInput.Statement .stream := ⟨_, rfl⟩
theorem EncodingIsInput.stop : EncodingIsInput.Statement .stop := ⟨_, rfl⟩
theorem EncodingIsInput.readTemp : EncodingIsInput.Statement .readTemp := ⟨_, rfl⟩
theorem EncodingIsInput.readVcc : EncodingIsInput.Statement .readVcc := ⟨_, rfl⟩
theorem EncodingIsInput.burst : EncodingIsInput.Statement .burst := ⟨_, rfl⟩
theorem EncodingIsInput.ignore (op : Byte) : EncodingIsInput.Statement (.ignore op) := ⟨_, rfl⟩

/-- The top three bits of an event word's second byte are zero. -/
theorem eventBytes_high (w : BitVec 5) : (0#3 ++ w : BitVec 8).extractLsb' 5 3 = 0#3 := by
  revert w; decide

theorem EncodingIsInput.cplA (d : Sample) : EncodingIsInput.Statement (.cplA d) :=
  ⟨_, if_pos (eventBytes_high _)⟩

theorem EncodingIsInput.cplB (d : Sample) : EncodingIsInput.Statement (.cplB d) :=
  ⟨_, if_pos (eventBytes_high _)⟩

end Sys2Proof.Laws
end

