-- ==== Sys2Proof/Tests/Slice0.lean ====
section
/-! SUPPORT. The writer's own tests. Expected values come from the tables and worked examples of spec/, named
in each comment. After them stands, for every statement with hypotheses, a witness: a concrete state and
operands that meet all of its hypotheses, one for each clause, at the ends of its range. -/

namespace Sys2Proof.Tests

open Sys2Proof Sys2Proof.Machine

/-! ## Small states -/

/-- A state after reset with the given parameters and both readings 0. -/
def freshState (lastIndex : Nat) (dual : Bool) : State :=
  { State.afterReset { lastIndex := lastIndex, dual := dual, vccWord := 0x1234#16 } [] 0 0 with
    chA := { st := .off, data := 0 }, chB := { st := .off, data := 0 } }

/-- `N = 4`, both channels enabled (L1-4). -/
def idle4 : State := freshState 3 true

/-- `idle4` with a byte held. -/
def holding (b : Byte) : State := { idle4 with rxByte := b, rxFull := true }

/-- `idle4` in a mode, with both channels converting. -/
def armed4 (m : CaptureMode) : State :=
  { idle4 with mode := m.bits, chA := { st := .conv, data := 0 }, chB := { st := .conv, data := 0 } }

/-- `armed4` with channel `c`'s reading `d` latched. -/
def latched (m : CaptureMode) (c : Chan) (d : Sample) : State :=
  (armed4 m).setCh c { st := .done, data := d }

/-- `idle4` running a job of kind `k`, at byte `i`. -/
def running (k : JobKind) (i : Nat) : State := { idle4 with seqKind := k.bits, seqIdx := i }

/-- The next state an answer holds. -/
def nextOf : Host.Outcome State Fault Refusal → Option State
  | .next t => some t
  | .fault _ => none
  | .refused _ => none

/-! ## Well-formedness -/

theorem test_ignore_of_each_command_code_is_ill_formed :
    commandCodes.all (fun op => !(Instr.ignore op).wellFormed) = true := by decide

theorem test_ignore_below_the_codes_is_well_formed : (Instr.ignore 0x30#8).wellFormed = true := by decide

theorem test_ignore_above_the_codes_is_well_formed : (Instr.ignore 0x38#8).wellFormed = true := by decide

/-! ## Decoding: words written out from R82 and R86 -/

theorem test_decode_test_speed : decodeBytes .cmd8 [0b00110001#8] = .ok .testSpeed := by decide
theorem test_decode_read_once : decodeBytes .cmd8 [0b00110010#8] = .ok .readOnce := by decide
theorem test_decode_stream : decodeBytes .cmd8 [0b00110011#8] = .ok .stream := by decide
theorem test_decode_stop : decodeBytes .cmd8 [0b00110100#8] = .ok .stop := by decide
theorem test_decode_read_temp : decodeBytes .cmd8 [0b00110101#8] = .ok .readTemp := by decide
theorem test_decode_read_vcc : decodeBytes .cmd8 [0b00110110#8] = .ok .readVcc := by decide
theorem test_decode_burst : decodeBytes .cmd8 [0b00110111#8] = .ok .burst := by decide

/-- V44-8: `0xB1` is `0x31` with bit 7 set; all 8 bits are decoded. -/
theorem test_decode_ignore : decodeBytes .cmd8 [0b10110001#8] = .ok (.ignore 0xB1#8) := by decide

/-- R93: `0x0064` is `CV A, 100`. -/
theorem test_decode_cpl_a : decode (.evt 0b0000001100100#13) = .cplA 100#12 := by decide

/-- R93: `0x1004` is `CV B, 4`. -/
theorem test_decode_cpl_b : decode (.evt 0b1000000000100#13) = .cplB 4#12 := by decide

theorem test_decode_cpl_a_bytes : decodeBytes .evt13 [0b01100100#8, 0b00000000#8] = .ok (.cplA 100#12) := by
  decide

theorem test_decode_cpl_b_bytes : decodeBytes .evt13 [0b00000100#8, 0b00010000#8] = .ok (.cplB 4#12) := by
  decide

theorem test_decode_rejects_event_bit_13 :
    decodeBytes .evt13 [0x00#8, 0x20#8] = .error .eventBitsAbove12 := by decide

theorem test_decode_rejects_two_command_bytes :
    decodeBytes .cmd8 [0x31#8, 0x32#8] = .error .commandNotOneByte := by decide

theorem test_decode_rejects_one_event_byte :
    decodeBytes .evt13 [0x64#8] = .error .eventNotTwoBytes := by decide

/-- The table's rows as the host numbers them. -/
theorem test_decode_table_words :
    (decodeTableWord 8 0x31 = some .testSpeed ∧ decodeTableWord 8 0x00 = some (.ignore 0x00#8)) ∧
    decodeTableWord 16 0x0FFF = some (.cplA 0xFFF#12) ∧ decodeTableWord 16 0x1FFF = some (.cplB 0xFFF#12) := by
  decide

/-! ## From the reset state: what a placed word does in the next step -/

theorem test_reset_runs_placed_commands :
    [0x31, 0x32, 0x33, 0x34, 0x35, 0x36, 0x37, 0x38].all
      (fun w => (nextOf (step (State.reset.withFetchWord 8 w))).isSome) = true := by decide

theorem test_reset_runs_placed_events :
    [0x0064, 0x1004].all (fun w => (nextOf (step (State.reset.withFetchWord 16 w))).isSome) = true := by decide

/-! ## The framer (95_test_vectors.md) -/

/-- L1-1, V43-4, V43-5, V43-6, V43-7. -/
theorem test_enc_cont :
    (encCont .A 0xABC#12).bytes = [0xBC#8, 0x8A#8] ∧ (encCont .B 0xFFF#12).bytes = [0xFF#8, 0x4F#8] ∧
    (encCont .A 0x100#12).bytes = [0x00#8, 0x81#8] ∧ (encCont .B 0x555#12).bytes = [0x55#8, 0x45#8] := by decide

/-- L1-2, V43-3, V43-8. -/
theorem test_tag_word_and_enc_burst :
    tagWord .A 0xABC#12 = 0x8ABC#16 ∧ tagWord .B 0xFFF#12 = 0x4FFF#16 ∧
    (encBurst 0x8ABC#16).bytes = [0x8A#8, 0xBC#8] ∧ (encBurst 0x4555#16).bytes = [0x45#8, 0x55#8] := by decide

/-- V43-9. -/
theorem test_enc_raw : (encRaw 0x12#8 0x34#8).bytes = [0x34#8, 0x12#8] := by decide

/-- V43-10. -/
theorem test_speed_bytes :
    [0, 1, 2, 3, 510, 511].map (fun k => (speedFrame (k / 2)).byte (k % 2)) =
      [0x00#8, 0x00#8, 0x01#8, 0x00#8, 0xFF#8, 0x00#8] := by decide

/-- V43-11, V43-12. -/
theorem test_host_reading :
    readContFrame { first := 0xFF#8, second := 0x8F#8 } = some (.A, 0xFFF#14) ∧
    readDrainFrame { first := 0x45#8, second := 0x55#8 } = some (.B, 0x555#14) := by decide

/-! ## Commands -/

/-- L1-5: the job of 512 bytes, and nothing else. -/
theorem test_exec_test_speed :
    nextOf (exec .testSpeed (holding 0x31#8)) = some { holding 0x31#8 with seqKind := 0b011#3 } := by decide

/-- V44-7. -/
theorem test_exec_read_once :
    nextOf (exec .readOnce (holding 0x32#8)) = some { holding 0x32#8 with seqKind := 0b001#3 } := by decide

/-- V44-2: the latched sample is dropped by the restart. -/
theorem test_exec_stream_restarts :
    (nextOf (exec .stream (latched .cont .A 9#12))).map
      (fun t => (t.mode, t.chA.st, t.chB.st, t.txlog)) = some (0b01#2, .conv, .conv, []) := by decide

/-- R23: with `DUAL = false` channel B is never armed. -/
theorem test_exec_stream_single :
    (nextOf (exec .stream (freshState 3 false))).map (fun t => (t.mode, t.chA.st, t.chB.st, t.fault)) =
      some (0b01#2, .conv, .off, none) := by decide

/-- V44-4, and the example of R175: the cursor is kept. -/
theorem test_exec_stop :
    (nextOf (exec .stop { armed4 .burst with cursor := 2 })).map
      (fun t => (t.mode, t.cursor, t.chA.st, t.chB.st)) = some (0b00#2, 2, .off, .off) := by decide

/-- V44-7. -/
theorem test_exec_read_temp :
    nextOf (exec .readTemp (holding 0x35#8)) = some { holding 0x35#8 with seqKind := 0b001#3 } := by decide

/-- L1-6: the low byte of the example value `0x1234` goes first. -/
theorem test_exec_read_vcc :
    ((nextOf (exec .readVcc (holding 0x36#8))).map fun t => (stateAfter .emit t).txlog) = some [0x34#8] := by
  decide

/-- V44-3. -/
theorem test_exec_burst :
    (nextOf (exec .burst { armed4 .cont with cursor := 2 })).map
      (fun t => (t.mode, t.cursor, t.chA.st, t.chB.st)) = some (0b10#2, 0, .conv, .conv) := by decide

/-- V44-8. -/
theorem test_exec_ignore :
    nextOf (exec (.ignore 0x41#8) (armed4 .cont)) = some { armed4 .cont with seqKind := 0b001#3 } := by decide

/-! ## Completions -/

/-- L1-3: the frame's job holds sample 100 of channel A. -/
theorem test_exec_cpl_a_cont :
    (nextOf (exec (.cplA 100#12) (latched .cont .A 100#12))).map
      (fun t => (t.seqKind, t.seqChan, t.seqSample, t.chA.st)) = some (0b010#3, .A, 0x064#12, .off) := by decide

/-- L1-4, first completion: `buf[0] = 0x8001`, re-armed. -/
theorem test_exec_cpl_a_burst :
    (nextOf (exec (.cplA 1#12) (latched .burst .A 1#12))).map
      (fun t => (t.cursor, t.bufWord 0, t.chA.st, t.busy)) = some (1, 0x8001#16, .conv, false) := by decide

/-- V41-1: discarded in Idle. -/
theorem test_exec_cpl_b_idle :
    (nextOf (exec (.cplB 7#12) (latched .idle .B 7#12))).map
      (fun t => (t.chB.st, t.txlog, t.buf, t.cursor)) = some (.off, [], [], 0) ∧
    (nextOf (exec (.cplB 7#12) (latched .idle .B 7#12))).map State.busy = some false := by decide

/-- L1-4, last completion: `buf[3] = 0x4004`, Idle, the drain starts, B is not re-armed. -/
theorem test_exec_cpl_b_fills :
    (nextOf (exec (.cplB 4#12) { latched .burst .B 4#12 with cursor := 3 })).map
      (fun t => (t.cursor, t.bufWord 3, t.mode, t.seqKind)) = some (4, 0x4004#16, 0b00#2, 0b101#3) ∧
    (nextOf (exec (.cplB 4#12) { latched .burst .B 4#12 with cursor := 3 })).map
      (fun t => (t.chA.st, t.chB.st)) = some (.conv, .off) := by decide

/-! ## The other steps -/

/-- V40-7 to V40-10: a conversion happens only while converting. -/
theorem test_convert :
    (stateAfter (.convert .A 0xFFF#12) (armed4 .cont)).chA = { st := .done, data := 0xFFF#12 } ∧
    stateAfter (.convert .A 5#12) (latched .cont .A 9#12) = latched .cont .A 9#12 ∧
    stateAfter (.convert .A 5#12) idle4 = idle4 := by decide

/-- V60-1: any of the three may be taken. -/
theorem test_all_pending_events_enabled :
    [Event.cmd, .cpl .A, .cpl .B].all (fun e => State.enables
      { latched .cont .A 1#12 with chB := { st := .done, data := 2 }, rxFull := true } (.dispatch e)) = true := by
  decide

/-- V60-2: during a drain only Emit. -/
theorem test_drain_lets_nothing_in :
    State.enables { running .drain 3 with rxFull := true } .emit = true ∧
    State.enables { running .drain 3 with rxFull := true } (.dispatch .cmd) = false ∧
    State.enables { running .drain 3 with rxFull := true } .finish = false := by decide

/-- V60-3. -/
theorem test_fault_stops_the_engine :
    (stateAfter .emit { running .speed 3 with fault := some .overrun }).txlog = [] ∧
    (stateAfter (.rxArrive 0x31#8) { idle4 with fault := some .overrun }).rxFull = true := by decide

/-- V60-4: Finish re-arms the frame's channel. -/
theorem test_finish_of_frame :
    State.enables { running .cframe 2 with mode := 0b01#2 } .emit = false ∧
    (stateAfter .finish { running .cframe 2 with mode := 0b01#2, seqChan := .B }).chB.st = .conv := by decide

/-- The example of R180. -/
theorem test_finish_of_command :
    (stateAfter .finish { running .speed 512 with rxFull := true, rxByte := 0x33#8 }).rxFull = false ∧
    (stateAfter .finish { running .speed 512 with rxFull := true, rxByte := 0x33#8 }).busy = false := by decide

/-- V70-1. -/
theorem test_reset_in_a_burst :
    (fun t : State => (t.mode, t.cursor, t.chA.st, t.rxFull))
      (stateAfter .reset { latched .burst .A 1#12 with cursor := 3, rxFull := true }) = (0b00#2, 0, .off, false) := by
  decide

/-- The codes of R209. -/
theorem test_fault_codes :
    [none, some Fault.overrun, some .disabledChannel, some .badMode, some .badSeq].map Fault.code =
      [0, 1, 2, 3, 4] := by decide

theorem test_boot_refuses_no_capacity : boot 0 true 0x1234#16 = .refused .badConfiguration := rfl

/-- R93: `RX STREAM` is `RX 0x33`, and `0x1004` is `CV B, 4`. -/
theorem test_lines : Line.rxCommand .stream = some (.rx 0x33#8) ∧ Line.ofEventWord 0x1004#13 = .cv .B 4#12 := by
  decide

/-! ## Witnesses for the statements' hypotheses -/

theorem witness_DecodeOfEncode :
    [Instr.testSpeed, .burst, .ignore 0x30#8, .ignore 0x38#8, .cplA 0xFFF#12, .cplB 0#12].all
      Instr.wellFormed = true := by decide

theorem witness_EncodeOfDecode :
    decodeBytes .cmd8 [0x37#8] = .ok .burst ∧ decodeBytes .evt13 [0xFF#8, 0x1F#8] = .ok (.cplB 0xFFF#12) := by
  decide

theorem witness_PlacedWordsAreRun :
    decodeTableWord 8 0xFF = some (.ignore 0xFF#8) ∧ decodeTableWord 13 0x1FFF = some (.cplB 0xFFF#12) ∧
    decodeTableWord 16 0x0000 = some (.cplA 0#12) := by decide

/-- The last frame of TEST_SPEED. -/
theorem witness_DrainAndRawFrameLayout : 255 ≤ 255 ∧ (speedFrame 255).bytes = [0xFF#8, 0x00#8] := by decide

theorem witness_TestSpeedSends512Bytes : idle4.fault = none := by decide
theorem witness_ReadVccSendsTheConstant : (holding 0x36#8).fault = none := by decide
theorem witness_ReservedAndUnknownCommandsDoNothing : (holding 0x32#8).fault = none := by decide

theorem witness_CompletionInIdleIsDiscarded : (latched .idle .B 7#12).mode = 0b00#2 := by decide

theorem witness_CompletionInContinuousStartsAFrame : (latched .cont .A 0#12).mode = 0b01#2 := by decide

/-- The first slot, and the last one that leaves room; B with `DUAL = true`. -/
theorem witness_CompletionInBurstStoresAndRearms :
    ∀ k ∈ [0, 2], State.mode { latched .burst .B 1#12 with cursor := k } = 0b10#2 ∧
      k + 1 < (latched .burst .B 1#12).cfg.capacity ∧ (latched .burst .B 1#12).cfg.dual = true := by decide

/-- The last slot for `N = 4`, and for `N = 1`. -/
theorem witness_CompletionThatFillsStartsTheDrain :
    (State.mode { latched .burst .A 1#12 with cursor := 3 } = 0b10#2 ∧
      3 + 1 = (latched .burst .A 1#12).cfg.capacity) ∧
    State.mode { freshState 0 false with mode := 0b10#2 } = 0b10#2 ∧
      (freshState 0 false).cursor + 1 = (freshState 0 false).cfg.capacity := by decide

theorem witness_CompletionRaisesModelFaults :
    State.mode { idle4 with mode := 0b11#2 } = 0b11#2 ∧
    (∀ k ∈ [4, 5], State.mode { armed4 .burst with cursor := k } = 0b10#2 ∧
      (armed4 .burst).cfg.capacity ≤ State.cursor { armed4 .burst with cursor := k }) ∧
    State.mode { freshState 3 false with mode := 0b10#2, cursor := 2 } = 0b10#2 ∧
    2 + 1 < (freshState 3 false).cfg.capacity ∧ (freshState 3 false).cfg.dual = false := by decide

theorem witness_EmitSendsTheNextByte :
    (running .cframe 0).fault = none ∧
    ((running .cframe 1).seqKind = 0b010#3 ∧ (running .cframe 1).seqIdx < 2) ∧
    ((running .speed 511).seqKind = 0b011#3 ∧ (running .speed 511).seqIdx < 512) ∧
    ((running .vcc 1).seqKind = 0b100#3 ∧ (running .vcc 1).seqIdx < 2) ∧
    (running .drain 7).seqKind = 0b101#3 ∧ (running .drain 7).seqIdx < 2 * (running .drain 7).cfg.capacity := by
  decide

theorem witness_FinishOfCommandClearsInbound :
    (running .cmd0 0).fault = none ∧
    ((running .cmd0 0).seqKind = 0b001#3 ∧ (running .cmd0 0).seqIdx = 0) ∧
    ((running .speed 512).seqKind = 0b011#3 ∧ (running .speed 512).seqIdx = 512) ∧
    (running .vcc 2).seqKind = 0b100#3 ∧ (running .vcc 2).seqIdx = 2 := by decide

/-- In each of the three modes, for channel A and, with `DUAL = true`, for channel B. -/
theorem witness_FinishOfFrameRearms :
    ∀ m ∈ [0b00#2, 0b01#2, 0b10#2], ∀ c ∈ [Chan.A, .B],
      State.fault { running .cframe 2 with mode := m, seqChan := c } = none ∧
      State.seqKind { running .cframe 2 with mode := m, seqChan := c } = 0b010#3 ∧
      State.seqIdx { running .cframe 2 with mode := m, seqChan := c } = 2 ∧
      State.mode { running .cframe 2 with mode := m, seqChan := c } = m ∧
      State.seqChan { running .cframe 2 with mode := m, seqChan := c } = c ∧
      (running .cframe 2).cfg.dual = true := by decide

theorem witness_FinishOfDrainKeepsState :
    (running .drain 8).fault = none ∧ (running .drain 8).seqKind = 0b101#3 ∧
    (running .drain 8).seqIdx = 2 * (running .drain 8).cfg.capacity := by decide

theorem witness_EngineRaisesModelFaults :
    (∀ k ∈ [0b110#3, 0b111#3], State.fault { idle4 with seqKind := k } = none ∧
      State.seqKind { idle4 with seqKind := k } = k) ∧
    State.mode { running .cframe 2 with mode := 0b11#2 } = 0b11#2 ∧
    ∀ m ∈ [0b01#2, 0b10#2],
      State.mode { freshState 3 false with mode := m, seqKind := 0b010#3, seqIdx := 2, seqChan := .B } = m ∧
      (freshState 3 false).cfg.dual = false ∧ (freshState 3 false).fault = none := by decide

theorem witness_ConversionLatches :
    (armed4 .cont).chA.st = .conv ∧ (armed4 .cont).chB.st = .conv ∧ (idle4.ch .A).st ≠ .conv := by decide

theorem witness_BootRefusesZeroCapacity : 1 ≤ 1 := by decide

theorem witness_StepRunsDecodedInstruction :
    (State.seqKind { holding 0x33#8 with script := [.dispatch .cmd] } = 0b000#3 ∧
      State.fault { holding 0x33#8 with script := [.dispatch .cmd] } = none ∧
      State.script { holding 0x33#8 with script := [.dispatch .cmd] } = .dispatch .cmd :: [] ∧
      (holding 0x33#8).rxFull = true ∧ decodeBytes .cmd8 [(holding 0x33#8).rxByte] = .ok .stream) ∧
    ∀ c ∈ [Chan.A, .B], (latched .cont c 0xFFF#12).seqKind = 0b000#3 ∧ (latched .cont c 0xFFF#12).fault = none ∧
      State.script { latched .cont c 0xFFF#12 with script := [.dispatch (.cpl c)] } = .dispatch (.cpl c) :: [] ∧
      ((latched .cont c 0xFFF#12).ch c).st = .done ∧
      decodeBytes .evt13 (eventBytes (eventWord c ((latched .cont c 0xFFF#12).ch c).data)) =
        .ok (Instr.cpl c 0xFFF#12) := by decide

theorem witness_StepTakesTheNextMove :
    State.script { idle4 with script := [.emit] } = .emit :: [] ∧ idle4.script = [] := by decide

theorem witness_DisabledMovesChangeNothing :
    idle4.enables (.convert .A 0#12) = false ∧ idle4.enables (.dispatch .cmd) = false ∧
    idle4.enables .finish = false ∧ idle4.enables .emit = false ∧
    idle4.seqKind ≠ 0b110#3 ∧ idle4.seqKind ≠ 0b111#3 := by decide

theorem witness_BusyEngineDispatchesNothing :
    State.seqKind { running .drain 3 with rxFull := true } ≠ 0b000#3 := by decide

theorem witness_FaultsAreSticky :
    State.fault { running .speed 3 with fault := some .overrun } ≠ none ∧
    ∀ m ∈ [Move.rxArrive 0x31#8, .convert .A 0#12, .dispatch .cmd, .emit, .finish], m ≠ Move.reset := by decide

/-- After a reset the invariants hold, whatever the parameters, the mode and cursor aside. -/
theorem freshState_inv (lastIndex : Nat) (dual : Bool) (script : List Move) :
    CoreInv { freshState lastIndex dual with script := script } where
  cursor_le := Nat.zero_le _
  burst_room h := by simp [freshState, State.afterReset, CaptureMode.bits] at h
  mode_legal := by simp [freshState, State.afterReset, CaptureMode.bits]
  kind_legal := by simp [freshState, State.afterReset, JobKind.bits]
  disabled_off c _ := by cases c <;> rfl
  index_le _ _ := Nat.zero_le _
  burst_armed h := by simp [freshState, State.afterReset, CaptureMode.bits] at h
  cont_armed h := by simp [freshState, State.afterReset, CaptureMode.bits] at h
  frame_mode h := by simp [freshState, State.afterReset, JobKind.bits] at h
  frame_chan h := by simp [freshState, State.afterReset, JobKind.bits] at h
  drain_full h := by simp [freshState, State.afterReset, JobKind.bits] at h
  buf_wf := rfl
  buf_range _ _ := rfl
  buf_written i h := by simp [freshState, State.afterReset] at h
  no_fault := rfl

/-- A burst one append short of full, `N = 2`, with the word below the cursor written. -/
def burst2 : State :=
  { freshState 1 false with
    mode := 0b10#2, cursor := 1, buf := [(0, 0x8005#16)], chA := { st := .done, data := 6#12 } }

theorem burst2_inv : CoreInv burst2 where
  cursor_le := by decide
  burst_room _ := by decide
  mode_legal := by decide
  kind_legal := by decide
  disabled_off c h := by cases c <;> simp_all [burst2, freshState, Config.enabled, State.afterReset, State.ch]
  index_le _ _ := Nat.zero_le _
  burst_armed _ := by decide
  cont_armed h := by simp [burst2, CaptureMode.bits] at h
  frame_mode h := by simp [burst2, freshState, State.afterReset, JobKind.bits] at h
  frame_chan h := by simp [burst2, freshState, State.afterReset, JobKind.bits] at h
  drain_full h := by simp [burst2, freshState, State.afterReset, JobKind.bits] at h
  buf_wf := by decide
  buf_range i h := by
    simp only [burst2, freshState, State.afterReset, Config.capacity] at h
    simp [burst2, Memory.read]
    omega
  buf_written i h := by
    simp only [burst2] at h
    simp [burst2, Memory.read]
    omega
  no_fault := rfl

/-- TEST_SPEED before its last byte. -/
theorem speed511_inv : CoreInv (running .speed 511) where
  cursor_le := by decide
  burst_room h := by simp [running, idle4, freshState, State.afterReset, CaptureMode.bits] at h
  mode_legal := by decide
  kind_legal := by decide
  disabled_off c h := by cases c <;> rfl
  index_le k h := by
    have : k = .speed := by
      simp only [running, jobOf, JobKind.bits] at h
      simpa using h.symm
    subst this
    decide
  burst_armed h := by simp [running, idle4, freshState, State.afterReset, CaptureMode.bits] at h
  cont_armed h := by simp [running, idle4, freshState, State.afterReset, CaptureMode.bits] at h
  frame_mode h := by simp [running, JobKind.bits] at h
  frame_chan h := by simp [running, JobKind.bits] at h
  drain_full h := by simp [running, JobKind.bits] at h
  buf_wf := rfl
  buf_range _ _ := rfl
  buf_written i h := by simp [running, idle4, freshState, State.afterReset] at h
  no_fault := rfl

theorem witness_StepKeepsInvariant :
    CoreInv { freshState 3 true with script := [.rxArrive 0x37#8] } ∧
    (nextOf (step { freshState 3 true with script := [.rxArrive 0x37#8] })).isSome = true ∧
    CoreInv burst2 ∧ (nextOf (act (.dispatch (.cpl .A)) burst2)).map State.seqKind = some 0b101#3 :=
  ⟨freshState_inv 3 true _, by decide, burst2_inv, by decide⟩

theorem witness_CountersFitTheirRegisters :
    (CoreInv burst2 ∧ burst2.mode = 0b10#2) ∧ CoreInv (running .speed 511) ∧
    (running .speed 511).enables .emit = true := ⟨⟨burst2_inv, by decide⟩, speed511_inv, by decide⟩

/-- The first and the last index, another index, and the first one refused. -/
theorem witness_BufferReadAfterWrite :
    (∀ i ∈ [0, 3], i < idle4.cfg.capacity) ∧ (2 < idle4.cfg.capacity ∧ 2 ≠ 3) ∧
    Memory.wf burst2.buf = true ∧ idle4.cfg.capacity ≤ 4 := by decide

/-- STREAM, STOP, BURST, the completion that fills, reset. -/
theorem witness_ModeChangesOnlyBy :
    (stateAfter (.dispatch .cmd) (holding 0x33#8)).mode ≠ (holding 0x33#8).mode ∧
    (stateAfter (.dispatch .cmd) { armed4 .cont with rxByte := 0x34#8, rxFull := true }).mode ≠ 0b01#2 ∧
    (stateAfter (.dispatch .cmd) (holding 0x37#8)).mode ≠ (holding 0x37#8).mode ∧
    (stateAfter (.dispatch (.cpl .A)) burst2).mode ≠ burst2.mode ∧
    (stateAfter .reset burst2).mode ≠ burst2.mode := by decide

theorem witness_CursorChangesOnlyBy :
    (stateAfter (.dispatch .cmd) { burst2 with rxByte := 0x37#8, rxFull := true }).cursor ≠ burst2.cursor ∧
    (stateAfter (.dispatch (.cpl .A)) burst2).cursor ≠ burst2.cursor ∧
    (stateAfter .reset burst2).cursor ≠ burst2.cursor := by decide

theorem witness_InboundChangesOnlyBy :
    (stateAfter (.rxArrive 0x31#8) idle4).rxByte ≠ idle4.rxByte ∧
    (stateAfter .finish { running .cmd0 0 with rxFull := true }).rxFull ≠ true ∧
    (stateAfter .reset (holding 0x31#8)).rxFull ≠ (holding 0x31#8).rxFull := by decide

theorem witness_ChannelStateChangesOnlyBy :
    (stateAfter (.dispatch .cmd) (holding 0x33#8)).chA.st ≠ .off ∧
    (stateAfter (.dispatch .cmd) (holding 0x37#8)).chB.st ≠ .off ∧
    (stateAfter .finish { running .cframe 2 with mode := 0b01#2, seqChan := .B }).chB.st ≠ .off ∧
    (stateAfter (.dispatch (.cpl .A)) (latched .burst .A 1#12)).chA.st ≠ .done ∧
    (stateAfter (.dispatch .cmd) { armed4 .cont with rxByte := 0x34#8, rxFull := true }).chB.st ≠ .conv ∧
    (stateAfter (.dispatch (.cpl .B)) (latched .idle .B 1#12)).chB.st ≠ .done ∧
    (stateAfter (.convert .A 0#12) (armed4 .cont)).chA.st ≠ .conv ∧
    (stateAfter .reset (armed4 .cont)).chA.st ≠ .conv := by decide

theorem witness_ReadingChangesOnlyBy :
    ((stateAfter (.convert .A 0xFFF#12) (armed4 .cont)).ch .A).data ≠ ((armed4 .cont).ch .A).data ∧
    ((stateAfter (.convert .B 1#12) (armed4 .cont)).ch .B).data ≠ ((armed4 .cont).ch .B).data := by decide

theorem witness_TransmitLogChangesOnlyBy :
    (∀ s ∈ [running .cframe 0, running .speed 511, running .vcc 1, running .drain 0],
      (stateAfter .emit s).txlog.length ≠ s.txlog.length) ∧
    (stateAfter .reset { idle4 with txlog := [0x80#8] }).txlog ≠ [0x80#8] := by decide

/-- The last index: a word written before is written again. -/
theorem witness_BufferWordChangesOnlyBy :
    (stateAfter (.dispatch (.cpl .A)) { burst2 with buf := [(0, 0x8005#16), (1, 0x4001#16)] }).bufWord 1 ≠
      State.bufWord { burst2 with buf := [(0, 0x8005#16), (1, 0x4001#16)] } 1 := by decide

theorem witness_ParametersAreConstant :
    nextOf (step { idle4 with script := [.rxArrive 0x37#8] }) = some (holding 0x37#8) := by decide

theorem witness_DrainSendsTheBufferInOrder :
    (running .drain 0).fault = none ∧ (running .drain 0).seqKind = 0b101#3 ∧ (running .drain 0).seqIdx = 0 := by
  decide

theorem witness_ContinuousSampleIsSentAndRearmed :
    ∀ c ∈ [Chan.A, .B], (latched .cont c 0xFFF#12).mode = 0b01#2 ∧ (latched .cont c 0xFFF#12).seqKind = 0b000#3 ∧
      (latched .cont c 0xFFF#12).fault = none ∧ ((latched .cont c 0xFFF#12).ch c).st = .done ∧
      c ∈ (latched .cont c 0xFFF#12).cfg.enabled := by decide

theorem witness_CancelledBurstIsNotDrained :
    ∀ b ∈ [0x34#8, 0x33#8], State.mode { burst2 with rxByte := b, rxFull := true } = 0b10#2 ∧
      State.seqKind { burst2 with rxByte := b, rxFull := true } = 0b000#3 ∧
      State.fault { burst2 with rxByte := b, rxFull := true } = none ∧
      State.rxFull { burst2 with rxByte := b, rxFull := true } = true ∧
      State.rxByte { burst2 with rxByte := b, rxFull := true } = b := by decide

/-- The reply is defined by the byte, so that every byte has one; the first code, the last, and both
neighbours. -/
theorem witness_IdleCommandResponses :
    ∀ b ∈ [0x30#8, 0x31#8, 0x36#8, 0x37#8, 0x38#8], (holding b).mode = 0b00#2 ∧ (holding b).seqKind = 0b000#3 ∧
      (holding b).fault = none ∧ (holding b).rxFull = true ∧ (holding b).rxByte = b := by decide

theorem witness_HeldByteAcrossJobs :
    idle4.fault = none ∧ idle4.seqKind = 0b000#3 ∧
    (∀ s ∈ [running .cmd0 0, running .speed 512, running .vcc 2],
      s.fault = none ∧ s.commandRunning = true ∧ s.enables .finish = true) ∧
    ∀ s ∈ [running .cframe 2, running .drain 8],
      s.fault = none ∧ (s.seqKind = 0b010#3 ∨ s.seqKind = 0b101#3) ∧ s.enables .finish = true := by decide

/-- No completion, `N - 1` of them, and `N` of them (L1-4). -/
theorem witness_BurstDrainsExactlyItsSamples :
    ((holding 0x37#8).seqKind = 0b000#3 ∧ (holding 0x37#8).fault = none ∧ (holding 0x37#8).rxFull = true ∧
      (holding 0x37#8).rxByte = 0x37#8) ∧
    (∀ e ∈ [(Chan.A, 1#12), (.B, 2#12), (.A, 3#12), (.B, 4#12)], e.1 ∈ (holding 0x37#8).cfg.enabled) ∧
    ([] : List (Chan × Sample)).length < (holding 0x37#8).cfg.capacity ∧
    [(Chan.A, 1#12), (.B, 2#12), (.A, 3#12)].length < (holding 0x37#8).cfg.capacity ∧
    [(Chan.A, 1#12), (.B, 2#12), (.A, 3#12), (.B, 4#12)].length = (holding 0x37#8).cfg.capacity := by decide

/-- `freshState 3 true` with other hidden values: a stale word and a stale reading. -/
def otherHidden : State :=
  { freshState 3 true with buf := [(3, 0x4004#16)], chB := { st := .off, data := 0xFFF#12 }, script := [.emit] }

theorem otherHidden_inv : CoreInv otherHidden where
  cursor_le := Nat.zero_le _
  burst_room h := by simp [otherHidden, freshState, State.afterReset, CaptureMode.bits] at h
  mode_legal := by decide
  kind_legal := by decide
  disabled_off c _ := by cases c <;> rfl
  index_le _ _ := Nat.zero_le _
  burst_armed h := by simp [otherHidden, freshState, State.afterReset, CaptureMode.bits] at h
  cont_armed h := by simp [otherHidden, freshState, State.afterReset, CaptureMode.bits] at h
  frame_mode h := by simp [otherHidden, freshState, State.afterReset, JobKind.bits] at h
  frame_chan h := by simp [otherHidden, freshState, State.afterReset, JobKind.bits] at h
  drain_full h := by simp [otherHidden, freshState, State.afterReset, JobKind.bits] at h
  buf_wf := rfl
  buf_range i h := by
    simp only [otherHidden, freshState, State.afterReset, Config.capacity] at h
    simp [otherHidden, Memory.read]
    omega
  buf_written i h := by simp [otherHidden, freshState, State.afterReset] at h
  no_fault := rfl

theorem otherHidden_same : SameVisible { freshState 3 true with script := [.emit] } otherHidden := by
  constructor
  case words => intro i h; simp [freshState, State.afterReset] at h
  case chA => exact ⟨rfl, fun _ => rfl⟩
  case chB => exact ⟨rfl, fun h => by simp [freshState] at h⟩
  all_goals rfl

theorem witness_HiddenStateNeverShows :
    CoreInv { freshState 3 true with script := [.emit] } ∧ CoreInv otherHidden ∧
    SameVisible { freshState 3 true with script := [.emit] } otherHidden ∧
    ({ freshState 3 true with script := [.emit] } : State) ≠ otherHidden ∧
    (nextOf (step { freshState 3 true with script := [.emit] })).isSome = true ∧
    (nextOf (step otherHidden)).isSome = true :=
  ⟨freshState_inv 3 true _, otherHidden_inv, otherHidden_same, by decide, by decide, by decide⟩

/-- The host asks for the voltage again and again, and the engine answers. -/
def vccForever (k : Nat) : Move :=
  match k % 5 with
  | 0 => .rxArrive 0x36#8
  | 1 => .dispatch .cmd
  | 2 => .emit
  | 3 => .emit
  | _ => .finish

theorem vcc_arrives (l : List Byte) :
    stateAfter (.rxArrive 0x36#8) { idle4 with txlog := l } = { holding 0x36#8 with txlog := l } := rfl

theorem vcc_starts (l : List Byte) :
    stateAfter (.dispatch .cmd) { holding 0x36#8 with txlog := l } =
      { holding 0x36#8 with txlog := l, seqKind := 0b100#3 } := rfl

theorem vcc_first (l : List Byte) :
    stateAfter .emit { holding 0x36#8 with txlog := l, seqKind := 0b100#3 } =
      { holding 0x36#8 with txlog := l ++ [0x34#8], seqKind := 0b100#3, seqIdx := 1 } := by
  simp [stateAfter, act, emit, emitJob, emitByte, jobOf, jobByte, Res.bind, Res.state, send, JobKind.len,
    State.healthy, vccFrame, encRaw, Frame.byte, holding, idle4, freshState, State.afterReset]

theorem vcc_second (l : List Byte) :
    stateAfter .emit { holding 0x36#8 with txlog := l, seqKind := 0b100#3, seqIdx := 1 } =
      { holding 0x36#8 with txlog := l ++ [0x12#8], seqKind := 0b100#3, seqIdx := 2 } := by
  simp [stateAfter, act, emit, emitJob, emitByte, jobOf, jobByte, Res.bind, Res.state, send, JobKind.len,
    State.healthy, vccFrame, encRaw, Frame.byte, holding, idle4, freshState, State.afterReset]

theorem vcc_ends (l : List Byte) :
    stateAfter .finish { holding 0x36#8 with txlog := l, seqKind := 0b100#3, seqIdx := 2 } =
      { idle4 with txlog := l } := rfl

/-- After each answer the engine is idle and nothing is pending. -/
theorem vccForever_idle (j : Nat) :
    ∃ l, traceOf vccForever idle4 (5 * j) = { idle4 with txlog := l } := by
  induction j with
  | zero => exact ⟨[], rfl⟩
  | succ j ih =>
    obtain ⟨l, hl⟩ := ih
    refine ⟨l ++ [0x34#8] ++ [0x12#8], ?_⟩
    have h0 : vccForever (5 * j) = .rxArrive 0x36#8 := by simp [vccForever]
    have h1 : vccForever (5 * j + 1) = .dispatch .cmd := by simp [vccForever, Nat.add_mod]
    have h2 : vccForever (5 * j + 1 + 1) = .emit := by simp [vccForever, Nat.add_mod]
    have h3 : vccForever (5 * j + 1 + 1 + 1) = .emit := by simp [vccForever, Nat.add_mod]
    have h4 : vccForever (5 * j + 1 + 1 + 1 + 1) = .finish := by simp [vccForever, Nat.add_mod]
    show traceOf vccForever idle4 (5 * j + 1 + 1 + 1 + 1 + 1) = _
    simp only [traceOf, hl, h0, h1, h2, h3, h4]
    rw [vcc_arrives, vcc_starts, vcc_first, vcc_second, vcc_ends]

theorem vccForever_fair : WeaklyFair vccForever idle4 where
  engine m hm k h := by
    obtain ⟨l, hl⟩ := vccForever_idle k
    have := h (5 * k) (by omega)
    rw [hl] at this
    cases m with
    | dispatch e =>
      rcases e with _ | c <;> [skip; cases c] <;>
        exact absurd this
          (by simp [idle4, freshState, State.afterReset, State.enables, State.pending, State.ch])
    | emit =>
      exact absurd this
        (by simp [idle4, freshState, State.afterReset, State.enables, jobOf, JobKind.bits, JobKind.len])
    | finish => exact absurd this (by simp [idle4, freshState, State.afterReset, State.enables, State.busy])
    | rxArrive _ => cases hm
    | convert _ _ => cases hm
    | reset => cases hm
  units c k h := by
    obtain ⟨l, hl⟩ := vccForever_idle k
    have := h (5 * k) (by omega)
    rw [hl] at this
    cases c <;> cases this

theorem witness_JobsEndUnderWeakFairness : CoreInv idle4 ∧ WeaklyFair vccForever idle4 :=
  ⟨freshState_inv 3 true [], vccForever_fair⟩

theorem witness_RunTakesEngineStepsToTheEnd :
    CoreInv (running .speed 511) ∧ Move.emit.isEngine = true ∧
    Move.emit ∈ engineMoves 1 [] (running .speed 511) := ⟨speed511_inv, by decide, by decide⟩

end Sys2Proof.Tests
end

/-! PROOFS. The statements about the architectural state (10_state.md): the transmit log and the reset table. -/

namespace Sys2Proof.Machine

open Sys2Proof

/-! ## Every move has an effect -/

/-- Every instruction's meaning ends in a next state (R11, R13). -/
theorem exec_next (i : Instr) (s : State) : ∃ t, exec i s = .next t := by
  cases i <;> exact ⟨_, rfl⟩

/-- Every move ends in a next state: an event that cannot be dispatched is passed over. -/
theorem act_next (m : Move) (s : State) : ∃ t, act m s = .next t := by
  cases m with
  | dispatch e =>
    cases hr : fetch e s with
    | none => exact ⟨s, by simp [act, dispatch, hr]⟩
    | some r =>
      obtain ⟨t, ht⟩ := exec_next (decode r) s
      exact ⟨t, by simp [act, dispatch, hr, ht]⟩
  | rxArrive | convert | emit | finish | reset => exact ⟨_, rfl⟩

/-- `move_effect` for the state after a move. -/
theorem stateAfter_effect (m : Move) (s : State) : MoveEffect s m (stateAfter m s) := by
  obtain ⟨t, ht⟩ := act_next m s
  have hst : stateAfter m s = t := by simp [stateAfter, ht]
  exact hst ▸ move_effect ht

/-! ## The transmit log -/

@[simp] theorem setAll_txlog (st : UnitState) (s : State) : (setAll st s).txlog = s.txlog := rfl
@[simp] theorem appended_txlog (c : Chan) (d : Sample) (s : State) : (appended c d s).txlog = s.txlog := rfl

/-- A command's Dispatch sends nothing. -/
theorem CommandEffect.txlog {b : Byte} {s t : State} (h : CommandEffect b s t) : t.txlog = s.txlog := by
  cases h <;> simp

/-- A completion's Dispatch sends nothing. -/
theorem CompletionEffect.txlog {c : Chan} {d : Sample} {s t : State} (h : CompletionEffect c d s t) :
    t.txlog = s.txlog := by
  cases h <;> simp

/-- The end of a job sends nothing. -/
theorem FinishEffect.txlog {s t : State} (h : FinishEffect s t) : t.txlog = s.txlog := by
  cases h <;> simp

/-- The kinds that send bytes, by their encodings (R36). -/
theorem JobKind.bits_of_sends {k : JobKind} (h : k.sends = true) :
    k.bits = 0b010#3 ∨ k.bits = 0b011#3 ∨ k.bits = 0b100#3 ∨ k.bits = 0b101#3 := by
  cases k with
  | noJob | cmd0 => cases h
  | cframe | speed | vcc | drain => decide

/-- An Emit that changes the log sends and counts one byte of a job that has bytes (R157). -/
theorem EmitEffect.appends_of_txlog_ne {s t : State} (h : EmitEffect s t) (hne : t.txlog ≠ s.txlog) :
    (∃ b, t.txlog = s.txlog ++ [b]) ∧ t.seqIdx = s.seqIdx + 1 ∧
      ∃ k : JobKind, s.seqKind = k.bits ∧ k.sends = true := by
  cases h with
  | same => exact absurd rfl hne
  | badSeq => exact absurd rfl hne
  | sent k b _ hk hsends => exact ⟨⟨b, rfl⟩, rfl, k, hk, hsends⟩

/-- Of the moves, only Emit and reset reach the log: the others' effects keep it. -/
theorem MoveEffect.emit_or_reset_of_txlog_ne {s t : State} {m : Move} (h : MoveEffect s m t)
    (hne : t.txlog ≠ s.txlog) : (m = .emit ∧ EmitEffect s t) ∨ m = .reset := by
  cases h with
  | same => exact absurd rfl hne
  | rxArrive => exact absurd rfl hne
  | convert => exact absurd (setCh_txlog ..) hne
  | command _ _ _ _ hc => exact absurd hc.txlog hne
  | completion _ _ _ _ _ hc => exact absurd hc.txlog hne
  | finish _ hf => exact absurd hf.txlog hne
  | emit _ he => exact .inl ⟨rfl, he⟩
  | reset => exact .inr rfl

/-- Settles O48, by the effects a move can have: only Emit's and reset's reach the log. -/
theorem transmitLogChangesOnlyBy : Obligations.TransmitLogChangesOnlyBy := by
  intro s m hne
  rcases (stateAfter_effect m s).emit_or_reset_of_txlog_ne hne with ⟨hm, he⟩ | hm
  · obtain ⟨hbyte, hidx, k, hk, hsends⟩ := he.appends_of_txlog_ne hne
    exact .inl ⟨hm, hbyte, hidx, hk ▸ JobKind.bits_of_sends hsends⟩
  · exact .inr hm

/-! ## The reset table -/

/-- Settles O29: each row of R46 is a field of `State.afterReset`. -/
theorem resetStateValues : Obligations.ResetStateValues := by
  exact ⟨rfl, rfl, rfl, rfl, rfl, rfl, rfl, rfl, rfl, rfl, rfl, rfl, rfl⟩

end Sys2Proof.Machine

/-! PROOFS. The statements about the burst buffer (20_memory.md): who writes a word of it. -/

namespace Sys2Proof.Machine

open Sys2Proof

/-! ## What keeps the buffer's words -/

/-- What a word reads as depends on two fields only: the written words and the reset that left the others. -/
theorem bufWord_congr {s t : State} (hbuf : t.buf = s.buf) (hresets : t.resets = s.resets) (i : Nat) :
    t.bufWord i = s.bufWord i := by
  rw [State.bufWord, State.bufWord, hbuf, hresets]

@[simp] theorem setAll_buf (st : UnitState) (s : State) : (setAll st s).buf = s.buf := rfl
@[simp] theorem setAll_resets (st : UnitState) (s : State) : (setAll st s).resets = s.resets := rfl

/-- No command writes a word: BURST resets the cursor and keeps the buffer (R140, R178). -/
theorem CommandEffect.bufWord {b : Byte} {s t : State} (h : CommandEffect b s t) (i : Nat) :
    t.bufWord i = s.bufWord i := by
  cases h <;> exact bufWord_congr (by simp) (by simp) i

/-- An Emit writes no word: a drain only reads them (R144). -/
theorem EmitEffect.bufWord {s t : State} (h : EmitEffect s t) (i : Nat) : t.bufWord i = s.bufWord i := by
  cases h <;> exact bufWord_congr rfl rfl i

/-- The end of a job writes no word: after a drain the words stay (R145). -/
theorem FinishEffect.bufWord {s t : State} (h : FinishEffect s t) (i : Nat) : t.bufWord i = s.bufWord i := by
  cases h <;> exact bufWord_congr (by simp) (by simp) i

/-! ## What an append writes -/

/-- An append writes the word at the cursor and keeps every other (R141). -/
theorem appended_bufWord (c : Chan) (d : Sample) (s : State) (i : Nat) :
    (appended c d s).bufWord i = if i = s.cursor then tagWord c d else s.bufWord i :=
  bufWord_write s s.cursor i (tagWord c d)

/-- A state with the words an append leaves differs from the state before it at the cursor only. -/
theorem eq_cursor_of_bufWord_ne_of_appended {c : Chan} {d : Sample} {s t : State} {i : Nat}
    (ht : t.bufWord i = (appended c d s).bufWord i) (hne : t.bufWord i ≠ s.bufWord i) :
    i = s.cursor ∧ t.bufWord i = tagWord c d := by
  rw [appended_bufWord] at ht
  by_cases hi : i = s.cursor
  · exact ⟨hi, by rw [ht, if_pos hi]⟩
  · exact absurd (by rw [ht, if_neg hi]) hne

/-- A completion keeps every word, or it has appended: in Burst, at a cursor below `N`. The append stands where
the channel cannot be re-armed after it. -/
theorem CompletionEffect.bufWord {c : Chan} {d : Sample} {s t : State} (h : CompletionEffect c d s t) (i : Nat) :
    t.bufWord i = s.bufWord i ∨
      (s.mode = 0b10#2 ∧ s.cursor < s.cfg.capacity ∧ t.bufWord i = (appended c d s).bufWord i) := by
  cases h with
  | idle | cont | overrun | badMode => exact .inl (bufWord_congr (by simp) (by simp) i)
  | store hm hroom _ | disabled hm hroom _ =>
    exact .inr ⟨hm, by omega, bufWord_congr (by simp) (by simp) i⟩
  | fill hm hlast => exact .inr ⟨hm, by omega, bufWord_congr (by simp) (by simp) i⟩

/-! ## The moves -/

/-- Of the moves, only a completion's Dispatch and reset reach the buffer's words: the others' effects keep
them. -/
theorem MoveEffect.completion_or_reset_of_bufWord_ne {s t : State} {m : Move} {i : Nat} (h : MoveEffect s m t)
    (hne : t.bufWord i ≠ s.bufWord i) :
    (∃ c, m = .dispatch (.cpl c) ∧ CompletionEffect c (s.ch c).data s t) ∨ m = .reset := by
  cases h with
  | same => exact absurd rfl hne
  | rxArrive => exact absurd (bufWord_congr rfl rfl i) hne
  | convert => exact absurd (bufWord_congr (by simp) (by simp) i) hne
  | command _ _ _ _ hc => exact absurd (hc.bufWord i) hne
  | emit _ he => exact absurd (he.bufWord i) hne
  | finish _ hf => exact absurd (hf.bufWord i) hne
  | completion c _ _ _ _ hc => exact .inl ⟨c, rfl, hc⟩
  | reset => exact .inr rfl

/-- Settles O49, by the effects a move can have: only a completion's append and reset reach a word. -/
theorem bufferWordChangesOnlyBy : Obligations.BufferWordChangesOnlyBy := by
  intro s m i hne
  rcases (stateAfter_effect m s).completion_or_reset_of_bufWord_ne hne with ⟨c, hm, hc⟩ | hm
  · obtain ⟨hmode, hroom, happ⟩ := (hc.bufWord i).resolve_left hne
    obtain ⟨hi, hw⟩ := eq_cursor_of_bufWord_ne_of_appended happ hne
    exact .inl ⟨c, hm, hmode, hi, hi ▸ hroom, hw⟩
  · exact .inr hm

end Sys2Proof.Machine

/-! PROOFS. The statements about the sample source (40_sample_source.md): what a conversion latches, and that the
channels are independent. -/

namespace Sys2Proof.Machine

open Sys2Proof

/-! ## Convert -/

/-- When a conversion may finish: its channel converts; neither `busy` nor `fault` is read (R113). -/
theorem enables_convert {s : State} {c : Chan} {d : Sample} :
    s.enables (.convert c d) = true ↔ (s.ch c).st = .conv := by
  simp [State.enables]

theorem convert_of_conv {s : State} {c : Chan} (d : Sample) (h : (s.ch c).st = .conv) :
    convert c d s = s.setCh c { st := .done, data := d } := if_pos h

/-- A unit that does not convert has nothing to latch. -/
theorem convert_of_not_conv {s : State} {c : Chan} (d : Sample) (h : (s.ch c).st ≠ .conv) :
    convert c d s = s := if_neg h

theorem act_convert_of_conv {s : State} {c : Chan} (d : Sample) (h : (s.ch c).st = .conv) :
    act (.convert c d) s = .next (s.setCh c { st := .done, data := d }) :=
  congrArg _ (convert_of_conv d h)

/-- Settles O27, by what Convert does where its channel converts, for each of the two channels. -/
theorem conversionLatches : Obligations.ConversionLatches := by
  intro s d
  have latches (c : Chan) := act_convert_of_conv (s := s) (c := c) d
  exact ⟨latches .A, latches .B, fun _ => enables_convert⟩

/-! ## Replacing the other channel's unit -/

theorem ne_other (c : Chan) : c ≠ c.other := by
  cases c <;> decide

@[simp] theorem setCh_other_ch (s : State) (c : Chan) (u : ChanUnit) : (s.setCh c.other u).ch c = s.ch c :=
  setCh_ch_other s u (ne_other c)

/-- Writes to the two channels' units commute. -/
theorem setCh_setCh_other (s : State) (c : Chan) (u v : ChanUnit) :
    (s.setCh c.other u).setCh c v = (s.setCh c v).setCh c.other u := by
  cases c <;> rfl

/-- So do writes of one unit's state and of the other unit. -/
theorem setSt_setCh_other (s : State) (c : Chan) (u : ChanUnit) (st : UnitState) :
    (s.setCh c.other u).setSt c st = (s.setSt c st).setCh c.other u := by
  rw [State.setSt, setCh_other_ch, setCh_setCh_other, State.setSt]

/-- Recording a fault commutes with writing a unit. -/
theorem setCh_with_fault (s : State) (c : Chan) (u : ChanUnit) (f : Option Fault) :
    { s.setCh c u with fault := f } = State.setCh { s with fault := f } c u := by
  cases c <;> rfl

/-! ## The operations on one channel -/

/-- An operation that sets channel `c`'s unit state where `c` is in `E`, and raises DISABLED_CHANNEL elsewhere,
does not see the other unit: `E` is a parameter (R23, R45). ARM and DISARM are the two (R111, R112). -/
theorem unitRequest_setCh_other {op : State → Res Unit} {c : Chan} {st : UnitState}
    (hok : ∀ s : State, c ∈ s.cfg.enabled → op s = .ok () (s.setSt c st))
    (hraise : ∀ s : State, c ∉ s.cfg.enabled → op s = .raised { s with fault := some .disabledChannel })
    (s : State) (u : ChanUnit) :
    (op (s.setCh c.other u)).state = (op s).state.setCh c.other u := by
  have hcfg : (s.setCh c.other u).cfg = s.cfg := setCh_cfg ..
  by_cases h : c ∈ s.cfg.enabled
  · rw [hok s h, hok _ (hcfg ▸ h)]
    exact setSt_setCh_other s c u st
  · rw [hraise s h, hraise _ (hcfg ▸ h)]
    exact setCh_with_fault s c.other u _

theorem arm_setCh_other (s : State) (c : Chan) (u : ChanUnit) :
    (arm c (s.setCh c.other u)).state = (arm c s).state.setCh c.other u :=
  unitRequest_setCh_other (fun _ => arm_ok) (fun _ => arm_disabled) s u

theorem disarm_setCh_other (s : State) (c : Chan) (u : ChanUnit) :
    (disarm c (s.setCh c.other u)).state = (disarm c s).state.setCh c.other u :=
  unitRequest_setCh_other (fun _ => disarm_ok) (fun _ => disarm_disabled) s u

/-- A conversion reads its own unit's state only (R113). -/
theorem convert_setCh_other (s : State) (c : Chan) (u : ChanUnit) (d : Sample) :
    convert c d (s.setCh c.other u) = (convert c d s).setCh c.other u := by
  have hch : (s.setCh c.other u).ch c = s.ch c := setCh_other_ch s c u
  by_cases h : (s.ch c).st = .conv
  · rw [convert_of_conv d h, convert_of_conv d (hch ▸ h), setCh_setCh_other]
  · rw [convert_of_not_conv d h, convert_of_not_conv d (hch ▸ h)]

/-- onComplete takes its own unit's reading, and disables its own unit only (R114). -/
theorem onComplete_setCh_other (s : State) (c : Chan) (u : ChanUnit) :
    onComplete c (s.setCh c.other u) = ((onComplete c s).1, (onComplete c s).2.setCh c.other u) := by
  rw [onComplete, setCh_other_ch, setSt_setCh_other, onComplete]

/-- Settles O51: each of the four operations commutes with a write to the other unit. -/
theorem channelsAreIndependent : Obligations.ChannelsAreIndependent := by
  intro s c u d
  have hdone := onComplete_setCh_other s c u
  exact ⟨arm_setCh_other s c u, disarm_setCh_other s c u, convert_setCh_other s c u d,
    by rw [hdone], by rw [hdone]⟩

end Sys2Proof.Machine

/-! PROOFS. The statements about the capture state machine (41_capture_state_machine.md): what a completion does in
each mode, and what the end of a continuous frame does. -/

namespace Sys2Proof.Machine

open Sys2Proof

/-! ## A completion in each mode -/

/-- A completion has exactly one outcome: where its effects allow one state only, exec gives that state. -/
theorem exec_cpl_of_effect {s u : State} {c : Chan} {d : Sample}
    (h : ∀ {t : State}, CompletionEffect c d s t → t = u) : exec (Instr.cpl c d) s = .next u := by
  obtain ⟨t, ht⟩ := exec_next (Instr.cpl c d) s
  rw [ht, h (exec_completion_effect ht)]

theorem exec_cpl_idle {s : State} (c : Chan) (d : Sample) (hm : s.mode = 0b00#2) :
    exec (Instr.cpl c d) s = .next (s.setSt c .off) := by
  refine exec_cpl_of_effect fun h => ?_
  cases h with
  | idle => rfl
  | cont hm' | store hm' | fill hm' | overrun hm' | disabled hm' | badMode hm' => simp [hm] at hm'

theorem exec_cpl_cont {s : State} (c : Chan) (d : Sample) (hm : s.mode = 0b01#2) :
    exec (Instr.cpl c d) s =
      .next (startJob .cframe { s.setSt c .off with seqSample := d, seqChan := c }) := by
  refine exec_cpl_of_effect fun h => ?_
  cases h with
  | cont => rfl
  | idle hm' | store hm' | fill hm' | overrun hm' | disabled hm' | badMode hm' => simp [hm] at hm'

/-- In Burst with room left, the word is appended and the channel armed again (R125). -/
theorem exec_cpl_store {s : State} {c : Chan} (d : Sample) (hm : s.mode = 0b10#2)
    (hroom : s.cursor + 1 < s.cfg.capacity) (hc : c ∈ s.cfg.enabled) :
    exec (Instr.cpl c d) s = .next ((appended c d s).setSt c .conv) := by
  refine exec_cpl_of_effect fun h => ?_
  cases h with
  | store => rfl
  | idle hm' | cont hm' | badMode hm' => simp [hm] at hm'
  | fill _ hlast => omega
  | overrun _ hfull => omega
  | disabled _ _ hc' => exact absurd hc hc'

/-- In Burst at the last slot, the word is appended and the drain starts, whether or not the channel is in `E`:
nothing is armed (R126). -/
theorem exec_cpl_fill {s : State} (c : Chan) (d : Sample) (hm : s.mode = 0b10#2)
    (hlast : s.cursor + 1 = s.cfg.capacity) :
    exec (Instr.cpl c d) s = .next (burstFull ((appended c d s).setSt c .off)) := by
  refine exec_cpl_of_effect fun h => ?_
  cases h with
  | fill => rfl
  | idle hm' | cont hm' | badMode hm' => simp [hm] at hm'
  | store _ hroom => omega
  | overrun _ hfull => omega
  | disabled _ hroom => omega

/-- Settles O16, by what a completion does in Idle, for each channel. -/
theorem completionInIdleIsDiscarded : Obligations.CompletionInIdleIsDiscarded := by
  intro s d hm
  exact ⟨exec_cpl_idle .A d hm, exec_cpl_idle .B d hm⟩

/-- Settles O17, by what a completion does in Continuous, for each channel. -/
theorem completionInContinuousStartsAFrame : Obligations.CompletionInContinuousStartsAFrame := by
  intro s d hm
  exact ⟨exec_cpl_cont .A d hm, exec_cpl_cont .B d hm⟩

/-! ## The stored word -/

/-- The mask of R151 keeps the whole reading: it has 12 bits. -/
theorem toNat_magnitude (d : Sample) : (magnitude d).toNat = d.toNat := by
  have hmask : 0x3FFF#14 = BitVec.allOnes 14 := rfl
  rw [magnitude, hmask, BitVec.and_allOnes, BitVec.toNat_setWidth_of_le (by omega)]

/-- A Tagged Sample Word as a number: the tag above the 14 bits of the magnitude (R87, R151). -/
theorem toNat_tagWord (c : Chan) (d : Sample) : (tagWord c d).toNat = (tag c).toNat * 2 ^ 14 + d.toNat := by
  have hd : d.toNat < 2 ^ 14 := by omega
  rw [tagWord, BitVec.toNat_append, toNat_magnitude, ← Nat.shiftLeft_add_eq_or_of_lt hd, Nat.shiftLeft_eq]

theorem tagWord_A (d : Sample) : tagWord .A d = BitVec.ofNat 16 (0x8000 + d.toNat) :=
  BitVec.eq_of_toNat_eq (by simp [toNat_tagWord, tag]; omega)

theorem tagWord_B (d : Sample) : tagWord .B d = BitVec.ofNat 16 (0x4000 + d.toNat) :=
  BitVec.eq_of_toNat_eq (by simp [toNat_tagWord, tag]; omega)

/-- What a state that holds an append's buffer reads as: the tagged word at the cursor. -/
theorem bufWord_cursor_of_appended {c : Chan} {d : Sample} {s t : State}
    (hbuf : t.buf = (appended c d s).buf) (hresets : t.resets = s.resets) :
    t.bufWord s.cursor = tagWord c d := by
  rw [bufWord_congr hbuf hresets, appended_bufWord, if_pos rfl]

/-- Every other word is the one from before the append. -/
theorem bufWord_ne_cursor_of_appended {c : Chan} {d : Sample} {s t : State}
    (hbuf : t.buf = (appended c d s).buf) (hresets : t.resets = s.resets) (i : Nat) (hi : i ≠ s.cursor) :
    t.bufWord i = s.bufWord i := by
  rw [bufWord_congr hbuf hresets, appended_bufWord, if_neg hi]

/-- Settles O18: the state a stored completion leaves, and its words by those of the append. -/
theorem completionInBurstStoresAndRearms : Obligations.CompletionInBurstStoresAndRearms := by
  intro s d hm hroom
  refine ⟨?_, fun hdual => ?_⟩
  · have hA : .A ∈ s.cfg.enabled := (mem_enabled ..).2 (.inl rfl)
    exact ⟨_, exec_cpl_store d hm hroom hA, rfl,
      tagWord_A d ▸ bufWord_cursor_of_appended rfl rfl, bufWord_ne_cursor_of_appended rfl rfl⟩
  · have hB : .B ∈ s.cfg.enabled := (mem_enabled ..).2 (.inr hdual)
    exact ⟨_, exec_cpl_store d hm hroom hB, rfl,
      tagWord_B d ▸ bufWord_cursor_of_appended rfl rfl, bufWord_ne_cursor_of_appended rfl rfl⟩

/-- Settles O19: the state the filling completion leaves, and its words by those of the append. -/
theorem completionThatFillsStartsTheDrain : Obligations.CompletionThatFillsStartsTheDrain := by
  intro s d hm hlast
  exact ⟨⟨_, exec_cpl_fill .A d hm hlast, rfl, rfl,
      tagWord_A d ▸ bufWord_cursor_of_appended rfl rfl, bufWord_ne_cursor_of_appended rfl rfl⟩,
    ⟨_, exec_cpl_fill .B d hm hlast, rfl, rfl,
      tagWord_B d ▸ bufWord_cursor_of_appended rfl rfl, bufWord_ne_cursor_of_appended rfl rfl⟩⟩

/-! ## The end of a continuous frame -/

theorem act_finish_cframe {s : State} (hf : s.fault = none) (hk : s.seqKind = JobKind.bits .cframe)
    (hi : s.seqIdx = 2) : act .finish s = .next (finishFrame s).state :=
  congrArg _ (finish_runs hf (jobOf_eq_some.2 hk) hi)

theorem finishFrame_idle {s : State} (hm : s.mode = CaptureMode.bits .idle) :
    finishFrame s = .ok () (endJob s) := by
  rw [finishFrame, hm, modeOf_bits]

/-- While the mode is a streaming one, the frame's channel is armed again (R124). -/
theorem finishFrame_rearms {s : State} {c : Chan}
    (hm : s.mode = CaptureMode.bits .cont ∨ s.mode = CaptureMode.bits .burst) (hchan : s.seqChan = c)
    (hc : c ∈ s.cfg.enabled) : finishFrame s = .ok () (endJob (s.setSt c .conv)) := by
  rcases hm with hm | hm <;> simp [finishFrame, hm, hchan, arm_ok hc]

/-- Settles O23, by what the frame's Finish does in Idle and in the streaming modes. -/
theorem finishOfFrameRearms : Obligations.FinishOfFrameRearms := by
  intro s hf hk hi
  rw [act_finish_cframe hf hk hi]
  refine ⟨fun hm => ?_, fun hm hchan => ?_, fun hm hchan hdual => ?_⟩
  · rw [finishFrame_idle hm]
    rfl
  · rw [finishFrame_rearms hm hchan ((mem_enabled ..).2 (.inl rfl))]
    rfl
  · rw [finishFrame_rearms hm hchan ((mem_enabled ..).2 (.inr hdual))]
    rfl

end Sys2Proof.Machine

/-! PROOFS. The statements about the burst buffer's drain (42_burst_buffer.md): what its run sends, what its Finish
keeps, and what a burst that is cancelled leaves. -/

namespace Sys2Proof.Machine

open Sys2Proof

/-! ## Runs of moves -/

theorem runMoves_append (ms ns : List Move) (s : State) :
    runMoves (ms ++ ns) s = runMoves ns (runMoves ms s) := by
  induction ms generalizing s with
  | nil => rfl
  | cons m ms ih => exact ih (stateAfter m s)

theorem runMoves_jobMoves (n : Nat) (s : State) :
    runMoves (jobMoves n) s = finish (runMoves (List.replicate n .emit) s) :=
  runMoves_append ..

/-- A pending byte's Dispatch leaves what its instruction leaves (R171). -/
theorem stateAfter_dispatch_command {s t : State} (hk : s.seqKind = JobKind.bits .noJob) (hf : s.fault = none)
    (hr : s.rxFull = true) (h : exec (decodeCommand s.rxByte) s = .next t) :
    stateAfter (.dispatch .cmd) s = t := by
  have hact : act (.dispatch .cmd) s = .next t := h ▸ dispatch_command (enables_command.2 ⟨hk, hf, hr⟩)
  rw [stateAfter, hact]

/-! ## The Emits of a job -/

/-- The state with `n` bytes of a job sent, byte `i` being `byte i`. -/
def bytesSent (byte : Nat → Byte) (n : Nat) (s : State) : State :=
  { s with seqIdx := n, txlog := s.txlog ++ (List.range n).map byte }

theorem bytesSent_zero {s : State} (byte : Nat → Byte) (hi : s.seqIdx = 0) : bytesSent byte 0 s = s := by
  calc bytesSent byte 0 s
    _ = { s with seqIdx := 0 } := by simp [bytesSent]
    _ = s := by rw [← hi]

/-- One more byte is one more entry of the log, and counted (R157). -/
theorem bytesSent_succ (byte : Nat → Byte) (n : Nat) (s : State) :
    bytesSent byte (n + 1) s =
      { bytesSent byte n s with txlog := (bytesSent byte n s).txlog ++ [byte n], seqIdx := n + 1 } := by
  simp [bytesSent, List.range_succ]

/-- An Emit with `n` bytes sent sends byte `n`. -/
theorem emit_bytesSent {s : State} {k : JobKind} {byte : Nat → Byte} {n : Nat} (hf : s.fault = none)
    (hk : s.seqKind = k.bits) (hn : n < k.len s.cfg)
    (hbyte : jobByte k n (bytesSent byte n s) = some (.ok (byte n) (bytesSent byte n s))) :
    emit (bytesSent byte n s) = bytesSent byte (n + 1) s :=
  bytesSent_succ byte n s ▸ emit_sends hf (jobOf_eq_some.2 hk) hn hbyte

/-- `n` Emits, no more than the job's length, send its first `n` bytes in order and change nothing else
(R157). -/
theorem runMoves_emits {s : State} {k : JobKind} {byte : Nat → Byte} (hf : s.fault = none)
    (hk : s.seqKind = k.bits) (hi : s.seqIdx = 0)
    (hbyte : ∀ i < k.len s.cfg, jobByte k i (bytesSent byte i s) = some (.ok (byte i) (bytesSent byte i s)))
    {n : Nat} (hn : n ≤ k.len s.cfg) : runMoves (List.replicate n .emit) s = bytesSent byte n s := by
  induction n with
  | zero => exact (bytesSent_zero byte hi).symm
  | succ n ih =>
    rw [List.replicate_succ', runMoves_append, ih (by omega)]
    exact emit_bytesSent hf hk hn (hbyte n hn)

/-- The Emits and the Finish of a job send all its bytes and run its kind's post-action. -/
theorem runMoves_job {s : State} {k : JobKind} {byte : Nat → Byte} (hf : s.fault = none)
    (hk : s.seqKind = k.bits) (hi : s.seqIdx = 0)
    (hbyte : ∀ i < k.len s.cfg, jobByte k i (bytesSent byte i s) = some (.ok (byte i) (bytesSent byte i s))) :
    runMoves (jobMoves (k.len s.cfg)) s = (finishJob k (bytesSent byte (k.len s.cfg) s)).state := by
  rw [runMoves_jobMoves, runMoves_emits hf hk hi hbyte le_rfl]
  exact finish_runs hf (jobOf_eq_some.2 hk) rfl

/-- Two bytes of each frame, by the byte's index, are the frames in order (R155, R156). -/
theorem map_byte_range_two_mul (frame : Nat → Frame) (n : Nat) :
    (List.range (2 * n)).map (fun i => (frame (i / 2)).byte (i % 2)) =
      (List.range n).flatMap fun i => (frame i).bytes := by
  induction n with
  | zero => rfl
  | succ n ih =>
    have hhigh : (2 * n + 1) / 2 = n := by omega
    simp only [Nat.mul_succ, List.range_succ, List.map_append, List.flatMap_append, ih]
    simp [Frame.byte, Frame.bytes, hhigh]

/-! ## The drain -/

/-- The Finish of a drain has nothing to do but free the engine (R145). -/
theorem finish_drain {s : State} (hf : s.fault = none) (hk : s.seqKind = JobKind.bits .drain)
    (hi : s.seqIdx = 2 * s.cfg.capacity) : finish s = endJob s :=
  finish_runs hf (jobOf_eq_some.2 hk) hi

/-- Settles O24, by the post-action of a drain. -/
theorem finishOfDrainKeepsState : Obligations.FinishOfDrainKeepsState :=
  fun _ hf hk hi => congrArg _ (finish_drain hf hk hi)

/-- Byte `i` of a drain: the words in index order, the high byte of each first (R144, R153). -/
def drainByte (s : State) (i : Nat) : Byte := (encBurst (s.bufWord (i / 2))).byte (i % 2)

/-- No Emit writes a word, so a drain's next byte is read from the words it started with (R144). -/
theorem jobByte_drain {s : State} {i : Nat} (hi : i < 2 * s.cfg.capacity) :
    jobByte .drain i (bytesSent (drainByte s) i s) = some (.ok (drainByte s i) (bytesSent (drainByte s) i s)) := by
  have hword : (bytesSent (drainByte s) i s).bufWord (i / 2) = s.bufWord (i / 2) := bufWord_congr rfl rfl _
  have hroom : i / 2 < (bytesSent (drainByte s) i s).cfg.capacity := Nat.div_lt_of_lt_mul hi
  rw [jobByte, memRead_ok hroom, hword]
  rfl

/-- Settles O52: the run of a job whose byte `i` is `drainByte s i`, with the bytes paired into words. -/
theorem drainSendsTheBufferInOrder : Obligations.DrainSendsTheBufferInOrder := by
  intro s hf hk hi
  have hrun := runMoves_job (k := .drain) hf hk hi fun _ => jobByte_drain
  have hbytes : (List.range (2 * s.cfg.capacity)).map (drainByte s) =
      (List.range s.cfg.capacity).flatMap fun i => (encBurst (s.bufWord i)).bytes :=
    map_byte_range_two_mul (fun i => encBurst (s.bufWord i)) s.cfg.capacity
  calc runMoves (jobMoves (2 * s.cfg.capacity)) s
    _ = endJob (bytesSent (drainByte s) (2 * s.cfg.capacity) s) := hrun
    _ = { s with
          seqKind := 0b000#3, seqIdx := 0
          txlog := s.txlog ++ (List.range (2 * s.cfg.capacity)).map (drainByte s) } := rfl
    _ = _ := by rw [hbytes]; rfl

/-! ## A burst cancelled by STOP or STREAM -/

/-- STOP disarms and enters Idle; it does not look at the mode it leaves (R175). -/
theorem exec_stop (s : State) : exec .stop s = .next (startJob .cmd0 (setMode .idle (setAll .off s))) := by
  rw [exec, execStop, disarmAll_ok]
  rfl

/-- STREAM arms and enters Continuous; it does not look at the mode it leaves (R174). -/
theorem exec_stream (s : State) : exec .stream s = .next (startJob .cmd0 (setMode .cont (setAll .conv s))) := by
  rw [exec, execStream, armAll_ok]
  rfl

/-- A command with no output bytes needs no Emit: its Finish clears the inbound register and frees the engine
(R180). -/
theorem runMoves_startJob_cmd0 {s : State} (hf : s.fault = none) :
    runMoves (jobMoves 0) (startJob .cmd0 s) = endJob (clearInbound (startJob .cmd0 s)) :=
  finish_runs (k := .cmd0) hf rfl rfl

/-- The whole run of a held command that changes only the channels' states and the mode (R174, R175). -/
theorem runMoves_modeCommand {s : State} {m : CaptureMode} {st : UnitState}
    (hk : s.seqKind = JobKind.bits .noJob) (hf : s.fault = none) (hr : s.rxFull = true)
    (h : exec (decodeCommand s.rxByte) s = .next (startJob .cmd0 (setMode m (setAll st s)))) :
    runMoves (.dispatch .cmd :: jobMoves 0) s =
      endJob (clearInbound (startJob .cmd0 (setMode m (setAll st s)))) := by
  rw [runMoves, stateAfter_dispatch_command hk hf hr h]
  exact runMoves_startJob_cmd0 hf

/-- Settles O54: neither command's run writes the log, the cursor or the buffer. -/
theorem cancelledBurstIsNotDrained : Obligations.CancelledBurstIsNotDrained := by
  intro s _ hk hf hr hb
  rcases hb with hb | hb
  · have hrun := runMoves_modeCommand hk hf hr (by rw [hb]; exact exec_stop s)
    rw [hrun, if_pos hb]
    exact ⟨rfl, rfl, rfl, rfl, rfl⟩
  · have hrun := runMoves_modeCommand hk hf hr (by rw [hb]; exact exec_stream s)
    rw [hrun, hb]
    exact ⟨rfl, rfl, rfl, rfl, rfl⟩

end Sys2Proof.Machine

/-! PROOFS. The statements about the frame encoder (43_frame_encoder.md): the layout of its words and frames, and
the host's reading of them. -/

namespace Sys2Proof.Machine

open Sys2Proof

/-! ## The bytes of a word -/

/-- The high byte of a word is the quotient by `2 ^ 8`. -/
theorem extractLsb'_high_byte (w : BitVec 16) : w.extractLsb' 8 8 = BitVec.ofNat 8 (w.toNat / 256) := by
  rw [BitVec.extractLsb', Nat.shiftRight_eq_div_pow]

/-- The low byte of a word is the word truncated. -/
theorem extractLsb'_low_byte (w : BitVec 16) : w.extractLsb' 0 8 = BitVec.ofNat 8 w.toNat := rfl

/-- A drain frame sends the two bytes of its word in the order of its digits (R153). -/
theorem encBurst_bytes (w : TaggedWord) :
    (encBurst w).bytes = [BitVec.ofNat 8 (w.toNat / 256), BitVec.ofNat 8 w.toNat] := by
  rw [Frame.bytes, encBurst, extractLsb'_high_byte, extractLsb'_low_byte]

theorem encRaw_bytes (msb lsb : Byte) : (encRaw msb lsb).bytes = [lsb, msb] := rfl

/-- A raw frame of a constant sends the same two bytes the other way round (R91, R154). -/
theorem vccFrame_bytes (v : BitVec 16) :
    (vccFrame v).bytes = [BitVec.ofNat 8 v.toNat, BitVec.ofNat 8 (v.toNat / 256)] := by
  rw [vccFrame, encRaw_bytes, extractLsb'_high_byte, extractLsb'_low_byte]

/-! ## One tagged word behind both frames -/

/-- The mask of R151 changes nothing. -/
theorem magnitude_eq_setWidth (d : Sample) : magnitude d = d.setWidth 14 :=
  BitVec.eq_of_toNat_eq (by rw [toNat_magnitude, BitVec.toNat_setWidth_of_le (by omega)])

/-- The two bytes of a continuous frame, the second above the first, are the tagged word of its sample (R151,
R152). -/
theorem encCont_second_append_first (c : Chan) (d : Sample) :
    (encCont c d).second ++ (encCont c d).first = tagWord c d := by
  have hlow : d.extractLsb' 0 8 = (d.setWidth 14).extractLsb' 0 8 :=
    (BitVec.extractLsb'_setWidth_of_le (by omega)).symm
  have hdigits : (d.setWidth 14).extractLsb' 8 6 ++ (d.setWidth 14).extractLsb' 0 8 = d.setWidth 14 :=
    BitVec.extractLsb'_append_extractLsb' (w := 6)
  calc (tag c ++ (d.setWidth 14).extractLsb' 8 6) ++ d.extractLsb' 0 8
    _ = tag c ++ ((d.setWidth 14).extractLsb' 8 6 ++ (d.setWidth 14).extractLsb' 0 8) := by
      rw [hlow, BitVec.append_assoc]; rfl
    _ = tagWord c d := by rw [hdigits, tagWord, magnitude_eq_setWidth]

/-- A continuous frame sends its sample's tagged word as a raw frame sends a constant: the low byte first. -/
theorem encCont_eq_vccFrame_tagWord (c : Chan) (d : Sample) : encCont c d = vccFrame (tagWord c d) := by
  rw [← encCont_second_append_first, vccFrame, BitVec.extractLsb'_append_eq_left,
    BitVec.extractLsb'_append_eq_right]
  rfl

/-! ## The host's reading -/

theorem chanOfTag_tag (c : Chan) : chanOfTag (tag c) = some c := by
  cases c <;> rfl

/-- The host puts the two bytes of a drain frame together again. -/
theorem drainFrameWord_encBurst (w : TaggedWord) : drainFrameWord (encBurst w) = w :=
  BitVec.extractLsb'_append_extractLsb' (w := 8)

/-- A frame whose word is a tag over 14 bits reads as the tag's channel and those bits. -/
theorem readDrainFrame_of_word {f : Frame} {c : Chan} {m : BitVec 14} (h : drainFrameWord f = tag c ++ m) :
    readDrainFrame f = some (c, m) := by
  rw [readDrainFrame, h, BitVec.extractLsb'_append_eq_left, BitVec.extractLsb'_append_eq_right, chanOfTag_tag]

/-- A drain frame gives back its sample, whose magnitude the mask left whole. -/
theorem readDrainFrame_encBurst_tagWord (c : Chan) (d : Sample) :
    readDrainFrame (encBurst (tagWord c d)) = some (c, d.setWidth 14) :=
  readDrainFrame_of_word (by rw [drainFrameWord_encBurst, tagWord, magnitude_eq_setWidth])

/-- The host reads a continuous frame, whose high byte comes second, as it reads a drain frame of the same two
bytes in the other order: the tag is the top of the high byte. -/
theorem readContFrame_encRaw (f : Frame) : readContFrame (encRaw f.first f.second) = readDrainFrame f := by
  have hfirst : f.first.extractLsb' 6 2 ++ f.first.extractLsb' 0 6 = f.first :=
    BitVec.extractLsb'_append_extractLsb' (w := 2)
  have hword : drainFrameWord f = f.first.extractLsb' 6 2 ++ (f.first.extractLsb' 0 6 ++ f.second) := by
    calc drainFrameWord f
      _ = (f.first.extractLsb' 6 2 ++ f.first.extractLsb' 0 6) ++ f.second := by rw [hfirst, drainFrameWord]
      _ = f.first.extractLsb' 6 2 ++ (f.first.extractLsb' 0 6 ++ f.second) := BitVec.append_assoc
  rw [readDrainFrame, hword, BitVec.extractLsb'_append_eq_left, BitVec.extractLsb'_append_eq_right]
  rfl

/-- Settles O9: a continuous frame is the drain frame of the same tagged word with its bytes exchanged, and the
host exchanges them back. -/
theorem framesRoundTrip : Obligations.FramesRoundTrip := by
  intro c d
  have hdrain := readDrainFrame_encBurst_tagWord c d
  refine ⟨?_, hdrain⟩
  calc readContFrame (encCont c d)
    _ = readContFrame (vccFrame (tagWord c d)) := by rw [encCont_eq_vccFrame_tagWord]
    _ = readDrainFrame (encBurst (tagWord c d)) := readContFrame_encRaw (encBurst (tagWord c d))
    _ = some (c, d.setWidth 14) := hdrain

/-! ## Layouts -/

/-- Settles O6, by the tag of each channel. -/
theorem taggedWordLayout : Obligations.TaggedWordLayout :=
  fun d => ⟨by simp [toNat_tagWord, tag], by simp [toNat_tagWord, tag]⟩

/-- A continuous frame's bytes are the digits of its tagged word, the low one first. -/
theorem encCont_bytes (c : Chan) (d : Sample) :
    (encCont c d).bytes =
      [BitVec.ofNat 8 (tagWord c d).toNat, BitVec.ofNat 8 ((tagWord c d).toNat / 256)] := by
  rw [encCont_eq_vccFrame_tagWord, vccFrame_bytes]

/-- A tag is a multiple of 256, so it leaves the low byte alone and adds to the high one (R152). -/
theorem encCont_bytes_of_toNat_tagWord {c : Chan} {d : Sample} {t : Nat}
    (h : (tagWord c d).toNat = 256 * t + d.toNat) :
    (encCont c d).bytes = [BitVec.ofNat 8 d.toNat, BitVec.ofNat 8 (t + d.toNat / 256)] := by
  have hlow : BitVec.ofNat 8 (256 * t + d.toNat) = BitVec.ofNat 8 d.toNat :=
    BitVec.eq_of_toNat_eq (Nat.mul_add_mod ..)
  rw [encCont_bytes, h, hlow, Nat.mul_add_div (by omega)]

/-- Settles O7, by the tagged word of each channel as a number. -/
theorem continuousFrameLayout : Obligations.ContinuousFrameLayout := by
  intro d
  obtain ⟨hA, hB⟩ := taggedWordLayout d
  exact ⟨encCont_bytes_of_toNat_tagWord (t := 0x80) hA, encCont_bytes_of_toNat_tagWord (t := 0x40) hB⟩

/-- Settles O8, by the bytes of each frame. -/
theorem drainAndRawFrameLayout : Obligations.DrainAndRawFrameLayout :=
  ⟨encBurst_bytes, encRaw_bytes, fun _ _ => encRaw_bytes .., vccFrame_bytes⟩

end Sys2Proof.Machine

/-! PROOFS. The statements about the command decoder and dispatcher (44_command_dispatcher.md): what each command
starts, what its whole job sends and what its Finish clears. -/

namespace Sys2Proof.Machine

open Sys2Proof

/-! ## A received byte -/

/-- Settles O26: the receive side looks at nothing the block holds. -/
theorem receivedByteOverwrites : Obligations.ReceivedByteOverwrites := by
  intro s b
  rfl

/-! ## The commands that change the mode -/

/-- BURST resets the cursor, arms and enters Burst; it does not look at the mode it leaves (R178). -/
theorem exec_burst (s : State) :
    exec .burst s = .next (startJob .cmd0 (setAll .conv (setMode .burst (resetCursor s)))) := by
  rw [exec, execBurst, armAll_ok]
  rfl

/-- Settles O13, by the state STREAM leaves. -/
theorem streamArmsAndEntersContinuous : Obligations.StreamArmsAndEntersContinuous :=
  fun s => ⟨_, exec_stream s, rfl, rfl⟩

/-- Settles O14, by the state STOP leaves. -/
theorem stopDisarmsAndEntersIdle : Obligations.StopDisarmsAndEntersIdle :=
  fun s => ⟨_, exec_stop s, rfl, rfl⟩

/-- Settles O15, by the state BURST leaves. -/
theorem burstRestartsTheBuffer : Obligations.BurstRestartsTheBuffer :=
  fun s => ⟨_, exec_burst s, rfl, rfl⟩

/-! ## The Finish of a command -/

/-- Every kind of the command class has the same post-action (R36, R180). -/
theorem finishJob_command {k : JobKind} (hc : k.isCommand = true) (s : State) :
    finishJob k s = .ok () (endJob (clearInbound s)) := by
  cases k with
  | cmd0 | speed | vcc => rfl
  | noJob | cframe | drain => cases hc

theorem act_finish_command {s : State} {k : JobKind} (hc : k.isCommand = true) (hf : s.fault = none)
    (hk : s.seqKind = k.bits) (hi : s.seqIdx = k.len s.cfg) :
    act .finish s = .next (endJob (clearInbound s)) := by
  rw [act, finish_runs hf (jobOf_eq_some.2 hk) hi, finishJob_command hc, Res.state_ok]

/-- Settles O22, by the post-action that the three kinds share. -/
theorem finishOfCommandClearsInbound : Obligations.FinishOfCommandClearsInbound := by
  intro s hf hjob
  rcases hjob with ⟨hk, hi⟩ | ⟨hk, hi⟩ | ⟨hk, hi⟩
  · exact act_finish_command (k := .cmd0) rfl hf hk hi
  · exact act_finish_command (k := .speed) rfl hf hk hi
  · exact act_finish_command (k := .vcc) rfl hf hk hi

/-! ## A command's whole job -/

/-- The state a command's job leaves with `reply` sent: the inbound register clear and the engine free (R180). -/
def replied (reply : List Byte) (s : State) : State :=
  { s with
    seqKind := JobKind.bits .noJob, seqIdx := 0, rxByte := 0x00#8, rxFull := false
    txlog := s.txlog ++ reply }

/-- A command's job sends its bytes in order and changes nothing else but what its Finish clears. -/
theorem runMoves_commandJob {s : State} {k : JobKind} {byte : Nat → Byte} (hc : k.isCommand = true)
    (hf : s.fault = none)
    (hbyte : ∀ (i : Nat) (t : State), i < k.len s.cfg → t.cfg = s.cfg →
      jobByte k i t = some (.ok (byte i) t)) :
    runMoves (jobMoves (k.len s.cfg)) (startJob k s) = replied ((List.range (k.len s.cfg)).map byte) s := by
  have hrun := runMoves_job (s := startJob k s) hf rfl rfl fun i hi => hbyte i _ hi rfl
  rw [finishJob_command hc] at hrun
  exact hrun

/-- What TEST_SPEED sends: 256 raw frames, frame `i` holding `i` (R91, R172). -/
def speedReply : List Byte := (List.range 256).flatMap fun i => [BitVec.ofNat 8 i, 0x00#8]

/-- Byte `i` of TEST_SPEED's job is byte `i` of its reply (R156). -/
theorem map_speedFrame_byte :
    (List.range 512).map (fun i => (speedFrame (i / 2)).byte (i % 2)) = speedReply :=
  map_byte_range_two_mul speedFrame 256

theorem speedReply_length : speedReply.length = 512 := by
  rw [← map_speedFrame_byte, List.length_map, List.length_range]

/-- What READ_VCC sends: the constant's low byte, then its high byte (R91, R177). -/
def vccReply (cfg : Config) : List Byte := [cfg.vccWord.extractLsb' 0 8, cfg.vccWord.extractLsb' 8 8]

theorem runMoves_startJob_speed {s : State} (hf : s.fault = none) :
    runMoves (jobMoves 512) (startJob .speed s) = replied speedReply s := by
  rw [← map_speedFrame_byte]
  exact runMoves_commandJob (k := .speed) rfl hf fun _ _ _ _ => rfl

theorem runMoves_startJob_vcc {s : State} (hf : s.fault = none) :
    runMoves (jobMoves 2) (startJob .vcc s) = replied (vccReply s.cfg) s :=
  runMoves_commandJob (k := .vcc) (byte := (vccFrame s.cfg.vccWord).byte) rfl hf
    fun i t _ hcfg => by rw [jobByte, hcfg]

/-- Settles O10: TEST_SPEED starts its job, whose bytes are those of its 256 frames. -/
theorem testSpeedSends512Bytes : Obligations.TestSpeedSends512Bytes :=
  fun _ => ⟨rfl, runMoves_startJob_speed⟩

/-- Settles O11: READ_VCC starts its job, whose bytes are those of its frame. -/
theorem readVccSendsTheConstant : Obligations.ReadVccSendsTheConstant :=
  fun _ => ⟨rfl, runMoves_startJob_vcc⟩

/-- Settles O12: the three start the job that sends no byte. -/
theorem reservedAndUnknownCommandsDoNothing : Obligations.ReservedAndUnknownCommandsDoNothing :=
  fun _ _ => ⟨rfl, rfl, rfl, runMoves_startJob_cmd0⟩

/-! ## A command in Idle -/

/-- The job of no bytes, as a reply of none. -/
theorem runMoves_startJob_cmd0_replied {s : State} (hf : s.fault = none) :
    runMoves (jobMoves 0) (startJob .cmd0 s) = replied [] s := by
  rw [runMoves_startJob_cmd0 hf, replied, List.append_nil]
  rfl

/-- Settles O55: the byte's Dispatch leaves one of the effects a command can have, and the job it starts sends
the byte's reply. -/
theorem idleCommandResponses : Obligations.IdleCommandResponses := by
  intro s reply hm hk hf hr hreply
  obtain ⟨t, ht⟩ := exec_next (decodeCommand s.rxByte) s
  rw [runMoves, stateAfter_dispatch_command hk hf hr ht]
  cases exec_command_effect ht with
  | plain k hjob =>
    cases hjob with
    | speed hb =>
      obtain rfl : reply = speedReply := hreply.trans (if_pos hb)
      rw [speedReply_length, runMoves_startJob_speed hf]
      simp [replied, JobKind.bits, hb, hm, hk]
    | vcc hb =>
      obtain rfl : reply = vccReply s.cfg := by simpa [hb, vccReply] using hreply
      refine Eq.trans (runMoves_startJob_vcc hf) ?_
      simp [replied, JobKind.bits, hb, hm, hk]
    | none h31 h33 h34 h36 h37 =>
      obtain rfl : reply = [] := by simpa [h31, h36] using hreply
      refine Eq.trans (runMoves_startJob_cmd0_replied hf) ?_
      simp [replied, JobKind.bits, h33, h34, h37, hm, hk]
  | stream hb =>
    obtain rfl : reply = [] := by simpa [hb] using hreply
    refine Eq.trans (runMoves_startJob_cmd0_replied hf) ?_
    simp [replied, setMode, setAll, JobKind.bits, CaptureMode.bits, hb, hk]
  | stop hb =>
    obtain rfl : reply = [] := by simpa [hb] using hreply
    refine Eq.trans (runMoves_startJob_cmd0_replied hf) ?_
    simp [replied, setMode, setAll, JobKind.bits, CaptureMode.bits, hb, hk]
  | burst hb =>
    obtain rfl : reply = [] := by simpa [hb] using hreply
    refine Eq.trans (runMoves_startJob_cmd0_replied hf) ?_
    simp [replied, setMode, setAll, resetCursor, JobKind.bits, CaptureMode.bits, hb, hk]

end Sys2Proof.Machine

/-! PROOFS. The statements about events, refused configurations and faults (60_exceptions.md): what boot answers, and
when an event may be dispatched. -/

namespace Sys2Proof.Machine

open Sys2Proof

/-! ## Boot -/

/-- No capacity, no state (R8, R210). -/
theorem boot_zero (dual : Bool) (vcc : BitVec 16) : boot 0 dual vcc = .refused .badConfiguration := rfl

/-- Every other capacity boots into the state after a reset, the parameters as given (R232). -/
theorem boot_succ (k : Nat) (dual : Bool) (vcc : BitVec 16) :
    boot (k + 1) dual vcc = .next (State.afterReset { lastIndex := k, dual := dual, vccWord := vcc } [] 0 0) := rfl

/-- The modes have different encodings (R24). -/
theorem CaptureMode.bits_inj {m n : CaptureMode} : m.bits = n.bits ↔ m = n := by
  rw [← modeOf_eq_some, modeOf_bits, Option.some_inj]

/-- The job kinds have different encodings (R36). -/
theorem JobKind.bits_inj {k l : JobKind} : k.bits = l.bits ↔ k = l := by
  rw [← jobOf_eq_some, jobOf_bits, Option.some_inj]

/-- After a reset the invariants of R47 hold, whatever the parameters and the model's own fields: the block is in
Idle with no job, so what the invariants ask of Continuous, of Burst, of a frame and of a drain asks nothing, and
the counters, the channels and the buffer are at zero, off and empty (R46). -/
theorem afterReset_inv (cfg : Config) (script : List Move) (draws resets : Nat) :
    CoreInv (State.afterReset cfg script draws resets) where
  cursor_le := Nat.zero_le _
  burst_room h := nomatch (CaptureMode.bits_inj (m := .idle)).1 h
  mode_legal := show CaptureMode.bits .idle ≠ 0b11#2 by decide
  kind_legal := show JobKind.bits .noJob ≠ 0b110#3 ∧ JobKind.bits .noJob ≠ 0b111#3 by decide
  disabled_off c _ := by cases c <;> rfl
  index_le _ _ := Nat.zero_le _
  burst_armed h := nomatch (CaptureMode.bits_inj (m := .idle)).1 h
  cont_armed h := nomatch (CaptureMode.bits_inj (m := .idle)).1 h
  frame_mode h := nomatch (JobKind.bits_inj (k := .noJob)).1 h
  frame_chan h := nomatch (JobKind.bits_inj (k := .noJob)).1 h
  drain_full h := nomatch (JobKind.bits_inj (k := .noJob)).1 h
  buf_wf := rfl
  buf_range i _ := Memory.read_nil i
  buf_written i h := absurd h (Nat.not_lt_zero i)
  no_fault := rfl

/-- Settles O30, by the two cases of the capacity: boot's state is a reset state. -/
theorem bootRefusesZeroCapacity : Obligations.BootRefusesZeroCapacity := by
  intro dual vcc
  refine ⟨boot_zero dual vcc, fun n hn => ?_⟩
  obtain ⟨k, rfl⟩ := Nat.exists_eq_add_of_le' hn
  exact ⟨_, boot_succ k dual vcc, rfl, rfl, rfl, afterReset_inv ..⟩

/-! ## Pending events -/

/-- Settles O35, by the condition of each Dispatch: that the held byte is not yet dispatched adds nothing where the
engine is idle (R33, R204). -/
theorem anyPendingEventMayBeDispatched : Obligations.AnyPendingEventMayBeDispatched :=
  fun _ => ⟨enables_command, fun _ => enables_completion⟩

end Sys2Proof.Machine

/-! PROOFS. The statement about reset while running (70_reset_and_hazards.md). -/

namespace Sys2Proof.Machine

open Sys2Proof

/-- Reset is always enabled: it asks nothing of the state (R231). -/
theorem act_reset (s : State) : act .reset s = .next (applyReset s) := rfl

/-- Reset in any state has the effect of R230: what it leaves is the reset state, the parameters, the fields of
the model's own bookkeeping and the unspecified readings aside. -/
theorem applyReset_eq_reset (s : State) :
    applyReset s =
      { State.reset with
        cfg := s.cfg
        chA := { State.reset.chA with data := Config.dataAtReset (s.resets + 1) .A }
        chB := { State.reset.chB with data := Config.dataAtReset (s.resets + 1) .B }
        script := s.script
        draws := s.draws
        resets := s.resets + 1 } := rfl

/-- Settles O28, by the reset table of R46 (O29): reset in any state leaves the reset state's values. -/
theorem resetInAnyState : Obligations.ResetInAnyState := by
  intro s
  refine ⟨applyReset s, act_reset s, ?_⟩
  rw [applyReset_eq_reset]
  exact ⟨rfl, resetStateValues⟩

end Sys2Proof.Machine

/-! PROOFS. The statements about the encoding (30_encoding.md): the decoder and the encoder are inverse to each
other on the words of the protocol. -/

namespace Sys2Proof.Machine

open Sys2Proof

/-! ## Command bytes -/

/-- Every byte is the word of the command it selects, and that command is well formed: the opcode map is total and
drops no bit (R82, R83). -/
theorem encode_decodeCommand (op : Byte) :
    (decodeCommand op).format = .cmd8 ∧ encode (decodeCommand op) = [op] ∧
      (decodeCommand op).wellFormed = true := by
  unfold decodeCommand
  split_ifs with h31 h32 h33 h34 h35 h36 h37
  case neg => simp [Instr.format, encode, Instr.wellFormed, commandCodes, *]
  all_goals
    subst op
    exact ⟨rfl, rfl, rfl⟩

/-- A byte selects IGNORE exactly where it is none of the seven codes (R83). -/
theorem decodeCommand_eq_ignore_iff (op : Byte) : decodeCommand op = .ignore op ↔ op ∉ commandCodes := by
  constructor
  · intro h
    have hwf := (encode_decodeCommand op).2.2
    rw [h] at hwf
    simpa [Instr.wellFormed] using hwf
  · intro h
    simp only [commandCodes, List.mem_cons, List.not_mem_nil, or_false, not_or] at h
    simp [decodeCommand, h]

/-- The seven codes are the bytes from `0x31` to `0x37` (R82). -/
theorem mem_commandCodes_iff (op : Byte) : op ∈ commandCodes ↔ 0x31 ≤ op.toNat ∧ op.toNat ≤ 0x37 := by
  simp only [commandCodes, List.mem_cons, List.not_mem_nil, or_false]
  bv_omega

/-- Settles O4: a byte that selects IGNORE is outside the range of the codes. -/
theorem opcodeMapIsTotal : Obligations.OpcodeMapIsTotal := by
  refine ⟨rfl, rfl, rfl, rfl, rfl, rfl, rfl, fun op => ?_⟩
  rw [decodeCommand_eq_ignore_iff, mem_commandCodes_iff]
  omega

/-! ## Event words -/

/-- The channel field is one bit, and both of its values are channels (R22, R86). -/
theorem eventChan_bit (w : EventWord) : (eventChan w).bit = w.extractLsb' 12 1 := by
  have hbit : ∀ b : BitVec 1, (if b = 0#1 then Chan.A else .B).bit = b := by decide
  exact hbit _

/-- An event word is its two fields (R86). -/
theorem eventWord_fields (w : EventWord) : eventWord (eventChan w) (eventSample w) = w := by
  rw [eventWord, eventChan_bit, eventSample]
  exact BitVec.extractLsb'_append_extractLsb' (w := 1)

/-- The two bytes of an event word are an input, and stand for that word. -/
theorem rawOfBytes_eventBytes (w : EventWord) : rawOfBytes .evt13 (eventBytes w) = .ok (.evt w) := by
  have hlow : (0#3 ++ w.extractLsb' 8 5 : BitVec 8).extractLsb' 0 5 = w.extractLsb' 8 5 :=
    BitVec.extractLsb'_append_eq_right
  have hword : w.extractLsb' 8 5 ++ w.extractLsb' 0 8 = w := BitVec.extractLsb'_append_extractLsb' (w := 5)
  rw [eventBytes, rawOfBytes, if_pos (Laws.eventBytes_high _), hlow, hword]

/-- Two bytes that are an input are the bytes of the word they stand for. -/
theorem eventBytes_append {lo hi : Byte} (h : hi.extractLsb' 5 3 = 0#3) :
    eventBytes (hi.extractLsb' 0 5 ++ lo) = [lo, hi] := by
  have hlow : (hi.extractLsb' 0 5 ++ lo).extractLsb' 0 8 = lo := BitVec.extractLsb'_append_eq_right
  have hhigh : (hi.extractLsb' 0 5 ++ lo).extractLsb' 8 5 = hi.extractLsb' 0 5 :=
    BitVec.extractLsb'_append_eq_left
  have hbyte : hi.extractLsb' 5 3 ++ hi.extractLsb' 0 5 = hi := BitVec.extractLsb'_append_extractLsb' (w := 3)
  rw [eventBytes, hlow, hhigh, ← h, hbyte]

@[simp] theorem decodeEvent_eventWord (c : Chan) (d : Sample) : decodeEvent (eventWord c d) = Instr.cpl c d := by
  rw [decodeEvent, eventChan_eventWord, eventSample_eventWord]

/-- A completion's words are those of its event word (R86). -/
theorem encode_cpl (c : Chan) (d : Sample) :
    (Instr.cpl c d).format = .evt13 ∧ encode (Instr.cpl c d) = eventBytes (eventWord c d) ∧
      (Instr.cpl c d).wellFormed = true := by
  cases c with
  | A => exact ⟨rfl, rfl, rfl⟩
  | B => exact ⟨rfl, rfl, rfl⟩

/-! ## Both directions -/

theorem decodeBytes_cmd8 (op : Byte) : decodeBytes .cmd8 [op] = .ok (decodeCommand op) := rfl

theorem decodeBytes_eventBytes (c : Chan) (d : Sample) :
    decodeBytes .evt13 (eventBytes (eventWord c d)) = .ok (Instr.cpl c d) := by
  rw [decodeBytes, rawOfBytes_eventBytes]
  exact congrArg _ (decodeEvent_eventWord c d)

/-- Settles O1: a command's one byte selects it, and a completion's two bytes are its event word, whose fields come
back from it. -/
theorem decodeOfEncode : Obligations.DecodeOfEncode := by
  intro i hwf
  cases i with
  | testSpeed | readOnce | stream | stop | readTemp | readVcc | burst => rfl
  | ignore op =>
    have hop : op ∉ commandCodes := by simpa [Instr.wellFormed] using hwf
    exact congrArg _ ((decodeCommand_eq_ignore_iff op).2 hop)
  | cplA d => exact decodeBytes_eventBytes .A d
  | cplB d => exact decodeBytes_eventBytes .B d

/-- What the bytes of an input decode to is what its raw form decodes to. -/
theorem decodeBytes_eq_ok_iff {f : Format} {bs : List Byte} {i : Instr} :
    decodeBytes f bs = .ok i ↔ ∃ r, rawOfBytes f bs = .ok r ∧ decode r = i := by
  unfold decodeBytes
  cases rawOfBytes f bs <;> simp

/-- What is read as an input of a format is a command byte, or an event word with nothing above it. -/
theorem rawOfBytes_eq_ok {f : Format} {bs : List Byte} {r : Raw} (h : rawOfBytes f bs = .ok r) :
    (∃ op, f = .cmd8 ∧ bs = [op] ∧ r = .cmd8 op) ∨ ∃ w, f = .evt13 ∧ bs = eventBytes w ∧ r = .evt w := by
  unfold rawOfBytes at h
  split at h
  · cases h
    exact .inl ⟨_, rfl, rfl, rfl⟩
  · cases h
  · split at h
    · cases h
      exact .inr ⟨_, rfl, (eventBytes_append ‹_›).symm, rfl⟩
    · cases h
  · cases h

/-- Settles O2: an input is a command byte or the bytes of an event word, and either is the encoding of what it
decodes to. -/
theorem encodeOfDecode : Obligations.EncodeOfDecode := by
  intro f bs i h
  obtain ⟨r, hr, rfl⟩ := decodeBytes_eq_ok_iff.1 h
  rcases rawOfBytes_eq_ok hr with ⟨op, rfl, rfl, rfl⟩ | ⟨w, rfl, rfl, rfl⟩
  · exact encode_decodeCommand op
  · have hcpl := encode_cpl (eventChan w) (eventSample w)
    rwa [eventWord_fields] at hcpl

/-- Settles O3, by running the decoder on each word. -/
theorem knownWordsDecode : Obligations.KnownWordsDecode := by
  unfold Obligations.KnownWordsDecode
  decide

end Sys2Proof.Machine

/-! PROOFS. The statements about one step (00_scope.md, 60_exceptions.md): which move it takes, when a move is
enabled, what it does where it is not, and that a fault is sticky. -/

namespace Sys2Proof.Machine

open Sys2Proof

/-! ## Derived flags -/

theorem busy_iff {s : State} : s.busy = true ↔ s.seqKind ≠ JobKind.bits .noJob := bne_iff_ne

theorem busy_eq_false_iff {s : State} : s.busy = false ↔ s.seqKind = JobKind.bits .noJob := bne_eq_false_iff_eq

/-- Settles O38, by the equation that defines each flag. -/
theorem derivedFlags : Obligations.DerivedFlags :=
  fun _ => ⟨busy_iff, beq_iff_eq, bne_iff_ne⟩

/-! ## When the engine may go on with a job -/

/-- Emit is enabled exactly where the job has bytes left (R157). -/
theorem enables_emit {s : State} :
    s.enables .emit = true ↔
      s.fault = none ∧ ∃ k : JobKind, s.seqKind = k.bits ∧ s.seqIdx < k.len s.cfg := by
  cases hk : jobOf s.seqKind with
  | none => simp [State.enables, hk, ← jobOf_eq_some]
  | some k => simp [State.enables, State.healthy, hk, ← jobOf_eq_some]

/-- Finish is enabled exactly where a job runs and has sent all its bytes (R124, R145, R180). -/
theorem enables_finish {s : State} :
    s.enables .finish = true ↔
      s.fault = none ∧ s.busy = true ∧ ∃ k : JobKind, s.seqKind = k.bits ∧ s.seqIdx = k.len s.cfg := by
  cases hk : jobOf s.seqKind with
  | none => simp [State.enables, hk, ← jobOf_eq_some]
  | some k => simp [State.enables, State.healthy, hk, ← jobOf_eq_some, and_assoc]

/-- Every engine move needs that no fault is recorded (R209). -/
theorem fault_of_enables {s : State} {m : Move} (hm : m.isEngine = true) (h : s.enables m = true) :
    s.fault = none := by
  cases m with
  | dispatch e =>
    cases e with
    | cmd => exact (enables_command.1 h).2.1
    | cpl c => exact (enables_completion.1 h).2.1
  | emit => exact (enables_emit.1 h).1
  | finish => exact (enables_finish.1 h).1
  | rxArrive | convert | reset => cases hm

/-- No Dispatch is enabled while a job runs (R204). -/
theorem dispatch_disabled_of_busy {s : State} (h : s.busy = true) (e : Event) :
    s.enables (.dispatch e) = false := by
  simp [State.enables, State.ready, h]

/-! ## Moves that are not enabled -/

/-- Emit with nothing to send changes nothing; a reserved kind is excluded (log 7). -/
theorem emit_disabled {s : State} (h : s.enables .emit = false)
    (hk : s.seqKind ≠ 0b110#3 ∧ s.seqKind ≠ 0b111#3) : emit s = s := by
  by_cases hf : s.fault = none
  swap
  · exact emit_faulted hf
  cases hjob : jobOf s.seqKind with
  | none => exact absurd (jobOf_eq_none.1 hjob) (not_or.2 hk)
  | some k =>
    refine emit_done hjob (Nat.le_of_not_lt fun hi => ?_)
    exact Bool.false_ne_true (h.symm.trans (enables_emit.2 ⟨hf, k, jobOf_eq_some.1 hjob, hi⟩))

/-- Finish is passed over unless it ends a job: the effects that change something need what enables it. -/
theorem finish_disabled {s : State} (h : s.enables .finish = false) : finish s = s := by
  have enabled {k : JobKind} (hf : s.fault = none) (hk : s.seqKind = k.bits) (hi : s.seqIdx = k.len s.cfg)
      (hne : k ≠ .noJob) : False := by
    have hbusy : s.busy = true := busy_iff.2 fun h0 => hne (JobKind.bits_inj.1 (hk.symm.trans h0))
    exact Bool.false_ne_true (h.symm.trans (enables_finish.2 ⟨hf, hbusy, k, hk, hi⟩))
  have heff := finish_effect s
  generalize finish s = t at heff ⊢
  cases heff with
  | same => rfl
  | command k hf hk hi hc => exact (enabled hf hk hi (by rintro rfl; cases hc)).elim
  | drain hf hk hi => exact (enabled (k := .drain) hf hk hi (by decide)).elim
  | frameIdle hf hk hi | frameRearm hf hk hi | disabled hf hk hi | badMode hf hk hi =>
    exact (enabled (k := .cframe) hf hk hi (by decide)).elim

/-- Settles O34, by what each agent's move does where its condition is false. -/
theorem disabledMovesChangeNothing : Obligations.DisabledMovesChangeNothing := by
  intro s m h hreserved
  cases m with
  | rxArrive b => cases h
  | reset => cases h
  | convert c d =>
    have hc : (s.ch c).st ≠ .conv := fun hc => Bool.false_ne_true (h.symm.trans (enables_convert.2 hc))
    exact congrArg _ (convert_of_not_conv d hc)
  | dispatch e => exact dispatch_disabled h
  | emit => exact congrArg _ (emit_disabled h (hreserved rfl))
  | finish => exact congrArg _ (finish_disabled h)

/-! ## The state after a move -/

theorem stateAfter_of_act {m : Move} {s t : State} (h : act m s = .next t) : stateAfter m s = t := by
  rw [stateAfter, h]

theorem act_eq_stateAfter (m : Move) (s : State) : act m s = .next (stateAfter m s) := by
  obtain ⟨t, ht⟩ := act_next m s
  rw [stateAfter_of_act ht, ht]

@[simp] theorem stateAfter_rxArrive (b : Byte) (s : State) : stateAfter (.rxArrive b) s = rxArrive b s := rfl
@[simp] theorem stateAfter_convert (c : Chan) (d : Sample) (s : State) :
    stateAfter (.convert c d) s = convert c d s := rfl
@[simp] theorem stateAfter_emit (s : State) : stateAfter .emit s = emit s := rfl
@[simp] theorem stateAfter_finish (s : State) : stateAfter .finish s = finish s := rfl
@[simp] theorem stateAfter_reset (s : State) : stateAfter .reset s = applyReset s := rfl

/-- A Dispatch that is not enabled leaves the state as it was. -/
theorem stateAfter_dispatch_disabled {s : State} {e : Event} (h : s.enables (.dispatch e) = false) :
    stateAfter (.dispatch e) s = s := stateAfter_of_act (dispatch_disabled h)

/-- An Emit writes the log, its count and, for a reserved kind, the fault, and nothing else. -/
theorem EmitEffect.frame {s t : State} (h : EmitEffect s t) :
    t = { s with txlog := t.txlog, seqIdx := t.seqIdx, fault := t.fault } := by
  cases h with
  | same | sent | badSeq => rfl

/-- Settles O36: no Dispatch is enabled while a job runs, and Emit's frame holds every latch. -/
theorem busyEngineDispatchesNothing : Obligations.BusyEngineDispatchesNothing := by
  intro s hk
  have hbusy : s.busy = true := busy_iff.2 hk
  have hframe := (emit_effect s).frame
  refine ⟨hbusy, fun e => ?_, ?_⟩
  · have he := dispatch_disabled_of_busy hbusy e
    exact ⟨he, dispatch_disabled he⟩
  · rw [stateAfter_emit, hframe]
    exact ⟨rfl, rfl, rfl, rfl⟩

/-! ## Faults -/

/-- A conversion writes its own unit only. -/
theorem convert_frame (c : Chan) (d : Sample) (s : State) :
    (convert c d s).fault = s.fault ∧ (convert c d s).txlog = s.txlog := by
  by_cases hc : (s.ch c).st = .conv
  · rw [convert_of_conv d hc]
    exact ⟨setCh_fault .., setCh_txlog ..⟩
  · rw [convert_of_not_conv d hc]
    exact ⟨rfl, rfl⟩

/-- In a faulted state an engine move is not enabled and leaves the state as it was. -/
theorem engine_stops_of_fault {s : State} {m : Move} (hf : s.fault ≠ none) (hm : m.isEngine = true) :
    s.enables m = false ∧ stateAfter m s = s := by
  have hdis : s.enables m = false := by
    by_contra h
    exact hf (fault_of_enables hm (by simpa using h))
  refine ⟨hdis, ?_⟩
  cases m with
  | dispatch e => exact stateAfter_dispatch_disabled hdis
  | emit => exact emit_faulted hf
  | finish => exact finish_faulted hf
  | rxArrive | convert | reset => cases hm

/-- Settles O37: the engine's moves stop, and the environment's write neither the fault nor the log. -/
theorem faultsAreSticky : Obligations.FaultsAreSticky := by
  intro s m hf hne
  by_cases hm : m.isEngine = true
  · obtain ⟨hdis, hsame⟩ := engine_stops_of_fault hf hm
    exact ⟨by rw [hsame], by rw [hsame], fun _ => ⟨hdis, hsame⟩⟩
  cases m with
  | rxArrive b => exact ⟨rfl, rfl, nofun⟩
  | convert c d =>
    obtain ⟨hfault, hlog⟩ := convert_frame c d s
    exact ⟨hfault, hlog, nofun⟩
  | reset => exact absurd rfl hne
  | dispatch | emit | finish => exact absurd rfl hm

/-! ## The step -/

theorem step_of_script_cons {s : State} {m : Move} {ms : List Move} (h : s.script = m :: ms) :
    step s = act m { s with script := ms } := by
  obtain ⟨hnext, htake⟩ := takeMove_cons h
  rw [step, hnext, htake]

/-- Settles O32, by the two cases of the script. -/
theorem stepTakesTheNextMove : Obligations.StepTakesTheNextMove := by
  refine ⟨fun _ _ _ => step_of_script_cons, fun s h => ?_⟩
  obtain ⟨hnext, htake⟩ := takeMove_nil h
  rw [step, hnext, htake]

/-- Settles O33: every move ends in a next state, whichever the step takes. -/
theorem stepAlwaysAnswersNext : Obligations.StepAlwaysAnswersNext :=
  fun s => act_next s.nextMove s.takeMove

/-- Settles O31: the decoder on bytes gives what the Dispatch of a pending event runs. -/
theorem stepRunsDecodedInstruction : Obligations.StepRunsDecodedInstruction := by
  intro s ms i hk hf
  refine ⟨fun hscript hr hi => ?_, fun c hscript hd hi => ?_⟩
  · rw [decodeBytes_cmd8] at hi
    cases hi
    rw [step_of_script_cons hscript]
    exact dispatch_command (enables_command.2 ⟨hk, hf, hr⟩)
  · rw [decodeBytes_eventBytes] at hi
    cases hi
    rw [step_of_script_cons hscript]
    have hd' : (State.ch { s with script := ms } c).st = .done := by cases c <;> exact hd
    exact dispatch_completion (enables_completion.2 ⟨hk, hf, hd'⟩)

/-! ## Placed words -/

theorem decodeTableWord_eq_some {nbits w : Nat} {i : Instr} (h : decodeTableWord nbits w = some i) :
    ∃ r, rawOfBytes (tableBytes nbits w).1 (tableBytes nbits w).2 = .ok r ∧ decode r = i := by
  unfold decodeTableWord at h
  split at h
  · split at h
    · cases h
      exact decodeBytes_eq_ok_iff.1 ‹_›
    · cases h
  · cases h

/-- A selected Dispatch is the move of the next step. -/
theorem step_selectDispatch (e : Event) (s : State) :
    step (selectDispatch e s) = dispatch e { selectDispatch e s with script := s.script } :=
  step_of_script_cons (s := selectDispatch e s) rfl

/-- A completion placed in its channel's latch is what the next step runs. -/
theorem step_selectDispatch_cpl (c : Chan) (d : Sample) (s : State) :
    step (selectDispatch (.cpl c) (s.setCh c { st := .done, data := d })) =
      exec (Instr.cpl c d)
        { selectDispatch (.cpl c) (s.setCh c { st := .done, data := d }) with script := s.script } := by
  rw [step_selectDispatch, setCh_script]
  cases c with
  | A => exact dispatch_completion (enables_completion.2 ⟨rfl, rfl, rfl⟩)
  | B => exact dispatch_completion (enables_completion.2 ⟨rfl, rfl, rfl⟩)

/-- Settles O5: a placed byte stands in the inbound register and a placed event in its channel's latch, where the
Dispatch placed with it finds them. -/
theorem placedWordsAreRun : Obligations.PlacedWordsAreRun := by
  intro s nbits w i hi
  obtain ⟨r, hr, rfl⟩ := decodeTableWord_eq_some hi
  have hplace : s.withFetchWord nbits w = placeRaw r s := by
    rw [State.withFetchWord, placeTableWord, hr]
  rw [hplace]
  cases r with
  | cmd8 op => exact (step_selectDispatch _ _).trans (dispatch_command (enables_command.2 ⟨rfl, rfl, rfl⟩))
  | evt w => exact step_selectDispatch_cpl (eventChan w) (eventSample w) s

end Sys2Proof.Machine

/-! PROOFS. The statements about the invariants (R47): the reset state has them, every step keeps them, and with
them the counters fit their registers. -/

namespace Sys2Proof

open Sys2Proof.Machine

/-! ## What the invariants say of the fields -/

/-- With the invariants the mode register holds a mode (R47 item 3). -/
theorem CoreInv.mode_bits {s : State} (h : CoreInv s) : ∃ m : CaptureMode, s.mode = m.bits := by
  cases hm : modeOf s.mode with
  | some m => exact ⟨m, modeOf_eq_some.1 hm⟩
  | none => exact absurd (modeOf_eq_none.1 hm) h.mode_legal

/-- With the invariants the job register holds a kind (R47 item 3). -/
theorem CoreInv.kind_bits {s : State} (h : CoreInv s) : ∃ k : JobKind, s.seqKind = k.bits := by
  cases hk : jobOf s.seqKind with
  | some k => exact ⟨k, jobOf_eq_some.1 hk⟩
  | none => exact absurd (jobOf_eq_none.1 hk) (not_or.2 h.kind_legal)

theorem CoreInv.index_le_len {s : State} {k : JobKind} (h : CoreInv s) (hk : s.seqKind = k.bits) :
    s.seqIdx ≤ k.len s.cfg := h.index_le k (jobOf_eq_some.2 hk)

/-- Only an enabled channel leaves OFF (R115). -/
theorem CoreInv.enabled_of_not_off {s : State} {c : Chan} (h : CoreInv s) (hc : (s.ch c).st ≠ .off) :
    c ∈ s.cfg.enabled := by
  by_contra hne
  exact hc (h.disabled_off c hne)

/-- While the block streams and no frame's job runs, every enabled channel is armed (R47 items 6, 7). -/
theorem CoreInv.armed {s : State} (h : CoreInv s) (hk : s.seqKind ≠ JobKind.bits .cframe)
    (hstream : s.mode ≠ CaptureMode.bits .idle) : ∀ c ∈ s.cfg.enabled, (s.ch c).st ≠ .off := by
  intro c hc
  obtain ⟨m, hm⟩ := h.mode_bits
  cases m with
  | idle => exact absurd hm hstream
  | cont => exact (h.cont_armed hm c hc).resolve_right fun hframe => hk hframe.1
  | burst => exact h.burst_armed hm c hc

/-! ## The storage -/

/-- The invariants of the burst buffer's storage: the cursor, and which words have been written. -/
structure StorageInv (s : State) : Prop where
  cursor_le : s.cursor ≤ s.cfg.capacity
  buf_wf : Memory.wf s.buf = true
  buf_range : ∀ i, s.cfg.capacity ≤ i → Memory.read s.buf i = none
  buf_written : ∀ i, i < s.cursor → Memory.read s.buf i ≠ none

theorem CoreInv.storage {s : State} (h : CoreInv s) : StorageInv s :=
  ⟨h.cursor_le, h.buf_wf, h.buf_range, h.buf_written⟩

/-- What keeps the parameters and the words, and does not advance the cursor, keeps the storage's invariants. -/
theorem StorageInv.of_eq {s t : State} (h : StorageInv s) (hcfg : t.cfg = s.cfg) (hbuf : t.buf = s.buf)
    (hcur : t.cursor ≤ s.cursor) : StorageInv t where
  cursor_le := hcfg ▸ hcur.trans h.cursor_le
  buf_wf := hbuf ▸ h.buf_wf
  buf_range := hcfg ▸ hbuf ▸ h.buf_range
  buf_written i hi := hbuf ▸ h.buf_written i (hi.trans_le hcur)

/-- An append below `N` writes the word that the cursor then passes (R141). -/
theorem StorageInv.append {s : State} (h : StorageInv s) (hroom : s.cursor < s.cfg.capacity) (c : Chan)
    (d : Sample) : StorageInv (appended c d s) where
  cursor_le := hroom
  buf_wf := Memory.wf_write _ _ _ h.buf_wf
  buf_range i hi := by
    have hne : i ≠ s.cursor := (hroom.trans_le hi).ne'
    exact (Memory.read_write_other _ _ hne).trans (h.buf_range i hi)
  buf_written i hi := by
    rw [appended, Memory.read_write]
    split
    · exact Option.some_ne_none _
    · have hlt : i < s.cursor + 1 := hi
      exact h.buf_written i (by omega)

/-! ## Building the invariants -/

/-- The invariants of a state that runs no frame and no drain: what they ask of those jobs asks nothing there. -/
theorem coreInv_of_plain {t : State} {m : CaptureMode} {k : JobKind} (hstorage : StorageInv t)
    (hm : t.mode = m.bits) (hroom : m = .burst → t.cursor < t.cfg.capacity) (hk : t.seqKind = k.bits)
    (hframe : k ≠ .cframe) (hdrain : k ≠ .drain) (hidx : t.seqIdx ≤ k.len t.cfg)
    (hoff : ∀ c, c ∉ t.cfg.enabled → (t.ch c).st = .off)
    (harmed : m ≠ .idle → ∀ c ∈ t.cfg.enabled, (t.ch c).st ≠ .off) (hfault : t.fault = none) : CoreInv t where
  cursor_le := hstorage.cursor_le
  burst_room h := hroom (CaptureMode.bits_inj.1 (hm.symm.trans h))
  mode_legal h := by simpa [hm] using modeOf_eq_none.2 h
  kind_legal := not_or.1 fun h => by simpa [hk] using jobOf_eq_none.2 h
  disabled_off := hoff
  index_le k' h := by
    obtain rfl : k = k' := JobKind.bits_inj.1 (hk.symm.trans (jobOf_eq_some.1 h))
    exact hidx
  burst_armed h := harmed (by rintro rfl; exact nomatch CaptureMode.bits_inj.1 (hm.symm.trans h))
  cont_armed h c hc :=
    .inl (harmed (by rintro rfl; exact nomatch CaptureMode.bits_inj.1 (hm.symm.trans h)) c hc)
  frame_mode h := absurd (JobKind.bits_inj.1 (hk.symm.trans h)) hframe
  frame_chan h := absurd (JobKind.bits_inj.1 (hk.symm.trans h)) hframe
  drain_full h := absurd (JobKind.bits_inj.1 (hk.symm.trans h)) hdrain
  buf_wf := hstorage.buf_wf
  buf_range := hstorage.buf_range
  buf_written := hstorage.buf_written
  no_fault := hfault

/-- A job that is no frame and no drain is started, or ended, where the storage and the mode stay and the
channels are armed as the mode needs them. -/
theorem CoreInv.of_plain {s t : State} (h : CoreInv s) {k : JobKind} (hcfg : t.cfg = s.cfg) (hbuf : t.buf = s.buf)
    (hcur : t.cursor = s.cursor) (hmode : t.mode = s.mode) (hk : t.seqKind = k.bits) (hframe : k ≠ .cframe)
    (hdrain : k ≠ .drain) (hidx : t.seqIdx = 0) (hfault : t.fault = s.fault)
    (hoff : ∀ c, c ∉ s.cfg.enabled → (t.ch c).st = .off)
    (harmed : s.mode ≠ CaptureMode.bits .idle → ∀ c ∈ s.cfg.enabled, (t.ch c).st ≠ .off) : CoreInv t := by
  obtain ⟨m, hm⟩ := h.mode_bits
  refine coreInv_of_plain (m := m) (h.storage.of_eq hcfg hbuf hcur.le) (hmode.trans hm) (fun hb => ?_) hk hframe
    hdrain (hidx.trans_le (Nat.zero_le _)) (hcfg ▸ hoff) (fun hne => ?_) (hfault.trans h.no_fault)
  · rw [hcur, hcfg]
    exact h.burst_room (hb ▸ hm)
  · rw [hcfg]
    exact harmed fun h0 => hne (CaptureMode.bits_inj.1 (hm.symm.trans h0))

end Sys2Proof

namespace Sys2Proof.Machine

open Sys2Proof

/-! ## Commands -/

/-- Which channels `setAll` changes: the enabled ones. -/
theorem setAll_st_enabled {s : State} {c : Chan} (st : UnitState) (h : c ∈ s.cfg.enabled) :
    ((setAll st s).ch c).st = st := by
  cases c with
  | A => rfl
  | B =>
    have hdual : s.cfg.dual = true := ((mem_enabled ..).1 h).resolve_left (by decide)
    exact congrArg ChanUnit.st (if_pos hdual)

theorem setAll_ch_disabled {s : State} {c : Chan} (st : UnitState) (h : c ∉ s.cfg.enabled) :
    (setAll st s).ch c = s.ch c := by
  cases c with
  | A => exact absurd ((mem_enabled ..).2 (.inl rfl)) h
  | B => exact if_neg fun hdual => h ((mem_enabled ..).2 (.inr hdual))

/-- The kinds of job that a command starts are of the command class (R36). -/
theorem PlainJob.isCommand {b : Byte} {k : JobKind} (h : PlainJob b k) : k.isCommand = true := by
  cases h <;> rfl

theorem JobKind.isCommand_ne {k : JobKind} (h : k.isCommand = true) :
    k ≠ .noJob ∧ k ≠ .cframe ∧ k ≠ .drain := by
  cases k with
  | cmd0 | speed | vcc => decide
  | noJob | cframe | drain => cases h

/-- A command that requests the unit state `st` of every enabled channel and enters mode `m` keeps the invariants,
where a streaming mode comes with armed channels and Burst with an empty buffer. -/
theorem coreInv_of_modeCommand {s t : State} {m : CaptureMode} {st : UnitState} (h : CoreInv s)
    (ht : t = startJob .cmd0 (setMode m { setAll st s with cursor := t.cursor })) (hcur : t.cursor ≤ s.cursor)
    (hroom : m = .burst → t.cursor = 0) (harmed : m ≠ .idle → st ≠ .off) : CoreInv t := by
  have hcfg : t.cfg = s.cfg := by rw [ht]; rfl
  have hch (c : Chan) : t.ch c = (setAll st s).ch c := by rw [ht]; cases c <;> rfl
  refine coreInv_of_plain (m := m) (k := .cmd0) (h.storage.of_eq hcfg (by rw [ht]; rfl) hcur) (by rw [ht]; rfl)
    (fun hb => by rw [hroom hb]; exact Nat.succ_pos _) (by rw [ht]; rfl) (by decide) (by decide)
    (by rw [ht]; exact Nat.zero_le _) (fun c hc => ?_) (fun hm c hc => ?_) (by rw [ht]; exact h.no_fault)
  · rw [hcfg] at hc
    rw [hch, setAll_ch_disabled st hc, h.disabled_off c hc]
  · rw [hcfg] at hc
    rw [hch, setAll_st_enabled st hc]
    exact harmed hm

/-- Every command keeps the invariants: it starts a job of its own class. -/
theorem CommandEffect.inv {b : Byte} {s t : State} (heff : CommandEffect b s t) (h : CoreInv s)
    (hk : s.seqKind = JobKind.bits .noJob) : CoreInv t := by
  cases heff with
  | plain k hjob =>
    obtain ⟨_, hframe, hdrain⟩ := JobKind.isCommand_ne hjob.isCommand
    exact h.of_plain rfl rfl rfl rfl rfl hframe hdrain rfl rfl h.disabled_off (h.armed (by rw [hk]; decide))
  | stream => exact coreInv_of_modeCommand h rfl le_rfl nofun fun _ => by decide
  | stop => exact coreInv_of_modeCommand h rfl le_rfl nofun fun hne => absurd rfl hne
  | burst =>
    exact coreInv_of_modeCommand (m := .burst) (st := .conv) h rfl (Nat.zero_le _) (fun _ => rfl) fun _ => by decide

/-! ## Completions -/

/-- A channel's unit is held in one of two fields. -/
theorem ch_congr {s t : State} (hA : t.chA = s.chA) (hB : t.chB = s.chB) (c : Chan) : t.ch c = s.ch c := by
  cases c with
  | A => exact hA
  | B => exact hB

@[simp] theorem appended_ch (c c' : Chan) (d : Sample) (s : State) : (appended c d s).ch c' = s.ch c' :=
  ch_congr rfl rfl c'

/-- Turning an enabled channel's unit leaves the disabled ones off. -/
theorem setSt_disabled_off {s : State} {c : Chan} (st : UnitState) (h : CoreInv s) (hc : c ∈ s.cfg.enabled) :
    ∀ c', c' ∉ s.cfg.enabled → ((s.setSt c st).ch c').st = .off := by
  intro c' hc'
  rw [setSt_ch_other s st (by rintro rfl; exact hc' hc)]
  exact h.disabled_off c' hc'

/-- Arming a channel leaves every channel armed that was, and that one too. -/
theorem setSt_conv_armed {s : State} {c c' : Chan} (harmed : c' ≠ c → (s.ch c').st ≠ .off) :
    ((s.setSt c .conv).ch c').st ≠ .off := by
  rw [setSt_ch]
  split
  · exact nofun
  · exact harmed ‹_›

/-- A completion stored in Burst leaves its channel armed, and the others as they were. -/
theorem coreInv_completion_store {s : State} {c : Chan} (d : Sample) (h : CoreInv s)
    (hk : s.seqKind = JobKind.bits .noJob) (hc : c ∈ s.cfg.enabled) (hm : s.mode = CaptureMode.bits .burst)
    (hroom : s.cursor + 1 < s.cfg.capacity) : CoreInv ((appended c d s).setSt c .conv) := by
  have hstorage := h.storage.append (h.burst_room hm) c d
  refine coreInv_of_plain (m := .burst) (k := .noJob) (hstorage.of_eq (by simp) (by simp) (by simp))
    ((setSt_mode ..).trans hm) (fun _ => ?_) ((setSt_seqKind ..).trans hk) (by decide) (by decide) ?_
    (fun c' hc' => ?_) (fun _ c' hc' => ?_) ((setSt_fault ..).trans h.no_fault)
  · rw [setSt_cursor, setSt_cfg]
    exact hroom
  · rw [setSt_seqIdx]
    exact h.index_le_len hk
  · rw [setSt_cfg] at hc'
    rw [setSt_ch_other _ _ (by rintro rfl; exact hc' hc), appended_ch]
    exact h.disabled_off c' hc'
  · rw [setSt_cfg] at hc'
    exact setSt_conv_armed fun _ => (appended_ch c c' d s).symm ▸ h.burst_armed hm c' hc'

/-- A completion in Continuous turns its unit off and holds its sample in the frame's job, which arms it again. -/
theorem coreInv_completion_cont {s : State} {c : Chan} (d : Sample) (h : CoreInv s)
    (hk : s.seqKind = JobKind.bits .noJob) (hc : c ∈ s.cfg.enabled) (hm : s.mode = CaptureMode.bits .cont) :
    CoreInv (startJob .cframe { s.setSt c .off with seqSample := d, seqChan := c }) := by
  have hcfg : (s.setSt c .off).cfg = s.cfg := setSt_cfg ..
  have hmode : (s.setSt c .off).mode = CaptureMode.bits .cont := (setSt_mode ..).trans hm
  have hch (c' : Chan) : (startJob .cframe { s.setSt c .off with seqSample := d, seqChan := c }).ch c' =
      (s.setSt c .off).ch c' := ch_congr rfl rfl c'
  have hstorage : StorageInv (s.setSt c .off) := h.storage.of_eq (by simp) (by simp) (by simp)
  exact {
    cursor_le := hstorage.cursor_le
    burst_room := fun hb => nomatch CaptureMode.bits_inj.1 (hmode.symm.trans hb)
    mode_legal := ne_of_eq_of_ne hmode (by decide)
    kind_legal := (by decide : JobKind.bits .cframe ≠ 0b110#3 ∧ JobKind.bits .cframe ≠ 0b111#3)
    disabled_off := fun c' hc' => by
      rw [hch]
      exact setSt_disabled_off .off h hc c' (hcfg ▸ hc')
    index_le := fun _ _ => Nat.zero_le _
    burst_armed := fun hb => nomatch CaptureMode.bits_inj.1 (hmode.symm.trans hb)
    cont_armed := fun _ c' hc' => by
      rw [hch]
      by_cases hcc : c' = c
      · exact .inr ⟨rfl, hcc.symm⟩
      · rw [setSt_ch_other s .off hcc]
        exact .inl (h.armed (by rw [hk]; decide) (by rw [hm]; decide) c' (hcfg ▸ hc'))
    frame_mode := fun _ => hmode
    frame_chan := fun _ => ⟨hcfg.symm ▸ hc, by rw [hch]; exact congrArg _ (setSt_ch_same ..)⟩
    drain_full := fun hd => nomatch (JobKind.bits_inj (k := .cframe)).1 hd
    buf_wf := hstorage.buf_wf
    buf_range := hstorage.buf_range
    buf_written := hstorage.buf_written
    no_fault := (setSt_fault ..).trans h.no_fault }

/-- The completion that fills the buffer enters Idle with the cursor at `N`, as a drain needs. -/
theorem coreInv_completion_fill {s : State} {c : Chan} (d : Sample) (h : CoreInv s) (hc : c ∈ s.cfg.enabled)
    (hm : s.mode = CaptureMode.bits .burst) (hlast : s.cursor + 1 = s.cfg.capacity) :
    CoreInv (burstFull ((appended c d s).setSt c .off)) := by
  have hcfg : ((appended c d s).setSt c .off).cfg = s.cfg := setSt_cfg ..
  have hstorage : StorageInv ((appended c d s).setSt c .off) :=
    (h.storage.append (h.burst_room hm) c d).of_eq (by simp) (by simp) (by simp)
  exact {
    cursor_le := hstorage.cursor_le
    burst_room := fun hb => nomatch (CaptureMode.bits_inj (m := .idle)).1 hb
    mode_legal := (by decide : CaptureMode.bits .idle ≠ 0b11#2)
    kind_legal := (by decide : JobKind.bits .drain ≠ 0b110#3 ∧ JobKind.bits .drain ≠ 0b111#3)
    disabled_off := fun c' hc' => by
      have hne : c' ≠ c := by
        rintro rfl
        exact hc' (hcfg.symm ▸ hc)
      rw [ch_congr (burstFull_chA _) (burstFull_chB _), setSt_ch_other _ _ hne, appended_ch]
      exact h.disabled_off c' (hcfg ▸ hc')
    index_le := fun _ _ => Nat.zero_le _
    burst_armed := fun hb => nomatch (CaptureMode.bits_inj (m := .idle)).1 hb
    cont_armed := fun hb => nomatch (CaptureMode.bits_inj (m := .idle)).1 hb
    frame_mode := fun hj => nomatch (JobKind.bits_inj (k := .drain)).1 hj
    frame_chan := fun hj => nomatch (JobKind.bits_inj (k := .drain)).1 hj
    drain_full := fun _ => ⟨rfl, (setSt_cursor ..).trans (hlast.trans (congrArg _ hcfg.symm))⟩
    buf_wf := hstorage.buf_wf
    buf_range := hstorage.buf_range
    buf_written := hstorage.buf_written
    no_fault := (setSt_fault ..).trans h.no_fault }

/-- Every completion keeps the invariants, and with them none of its faults can be raised (R121 to R126). -/
theorem CompletionEffect.inv {c : Chan} {d : Sample} {s t : State} (heff : CompletionEffect c d s t)
    (h : CoreInv s) (hk : s.seqKind = JobKind.bits .noJob) (hdone : (s.ch c).st = .done) : CoreInv t := by
  have hc : c ∈ s.cfg.enabled := h.enabled_of_not_off (by rw [hdone]; decide)
  cases heff with
  | idle hm =>
    have hidx : s.seqIdx = 0 := Nat.le_zero.1 (h.index_le_len hk)
    exact h.of_plain (by simp) (by simp) (by simp) (by simp) ((setSt_seqKind ..).trans hk) (by decide) (by decide)
      ((setSt_seqIdx ..).trans hidx) (by simp) (setSt_disabled_off .off h hc) (absurd hm)
  | cont hm => exact coreInv_completion_cont d h hk hc hm
  | store hm hroom => exact coreInv_completion_store d h hk hc hm hroom
  | fill hm hlast => exact coreInv_completion_fill d h hc hm hlast
  | overrun hm hfull => exact absurd (h.burst_room hm) (not_lt.2 hfull)
  | disabled _ _ hc' => exact absurd hc hc'
  | badMode hm => exact absurd hm h.mode_legal

/-! ## Emit and Finish -/

/-- Emit keeps the invariants: it stops at the job's length, and no reserved kind stands there to raise a fault. -/
theorem EmitEffect.inv {s t : State} (heff : EmitEffect s t) (h : CoreInv s) : CoreInv t := by
  cases heff with
  | same => exact h
  | badSeq _ hk => exact absurd hk (not_or.2 h.kind_legal)
  | sent k b _ hk _ hidx =>
    exact { h with
      index_le := fun k' hk' => by
        obtain rfl : k = k' := JobKind.bits_inj.1 (hk.symm.trans (jobOf_eq_some.1 hk'))
        exact hidx }

/-- The end of every job keeps the invariants, and with them none of its faults can be raised (R124, R145, R180). -/
theorem FinishEffect.inv {s t : State} (heff : FinishEffect s t) (h : CoreInv s) : CoreInv t := by
  cases heff with
  | same => exact h
  | command k _ hk _ hc =>
    have hk' : s.seqKind ≠ JobKind.bits .cframe := by
      rw [hk]
      exact fun h0 => (JobKind.isCommand_ne hc).2.1 (JobKind.bits_inj.1 h0)
    exact h.of_plain (k := .noJob) rfl rfl rfl rfl rfl (by decide) (by decide) rfl rfl h.disabled_off (h.armed hk')
  | drain _ hk =>
    exact h.of_plain (k := .noJob) rfl rfl rfl rfl rfl (by decide) (by decide) rfl rfl h.disabled_off
      (h.armed (by rw [hk]; decide))
  | frameIdle _ hk _ hm => exact nomatch (CaptureMode.bits_inj (m := .idle)).1 (hm.symm.trans (h.frame_mode hk))
  | frameRearm _ hk _ _ hc =>
    have hch (c : Chan) : (endJob (s.setSt s.seqChan .conv)).ch c = (s.setSt s.seqChan .conv).ch c :=
      ch_congr rfl rfl c
    refine h.of_plain (k := .noJob) (by simp) (by simp) (by simp) (by simp) rfl (by decide) (by decide) rfl (by simp)
      (fun c hcc => ?_) (fun _ c hcc => ?_)
    · rw [hch]
      exact setSt_disabled_off .conv h hc c hcc
    · rw [hch]
      refine setSt_conv_armed fun hne => ?_
      exact (h.cont_armed (h.frame_mode hk) c hcc).resolve_right fun hframe => hne hframe.2.symm
  | disabled _ hk _ _ hc => exact absurd (h.frame_chan hk).1 hc
  | badMode _ _ _ hm => exact absurd hm h.mode_legal

/-! ## The step -/

/-- A conversion turns a unit that is not off into one that is not off, and writes nothing else. -/
theorem coreInv_convert {s : State} {c : Chan} (d : Sample) (h : CoreInv s) (hc : (s.ch c).st = .conv) :
    CoreInv (s.setCh c { st := .done, data := d }) := by
  have hoff (c' : Chan) : ((s.setCh c { st := .done, data := d }).ch c').st = .off ↔ (s.ch c').st = .off := by
    by_cases hcc : c' = c
    · subst hcc
      simp [hc]
    · rw [setCh_ch_other s _ hcc]
  have hch (c' : Chan) := (hoff c').2
  exact {
    cursor_le := by simpa using h.cursor_le
    burst_room := by simpa using h.burst_room
    mode_legal := by simpa using h.mode_legal
    kind_legal := by simpa using h.kind_legal
    disabled_off := fun c' hc' => hch c' (h.disabled_off c' (by simpa using hc'))
    index_le := by simpa using h.index_le
    burst_armed := by simpa [hoff] using h.burst_armed
    cont_armed := by simpa [hoff] using h.cont_armed
    frame_mode := by simpa using h.frame_mode
    frame_chan := by simpa [hoff] using h.frame_chan
    drain_full := by simpa using h.drain_full
    buf_wf := by simpa using h.buf_wf
    buf_range := by simpa using h.buf_range
    buf_written := by simpa using h.buf_written
    no_fault := by simpa using h.no_fault }

/-- Every move of every agent keeps the invariants. -/
theorem MoveEffect.inv {s t : State} {m : Move} (heff : MoveEffect s m t) (h : CoreInv s) : CoreInv t := by
  cases heff with
  | same => exact h
  | rxArrive b => exact { h with }
  | convert c d hc => exact coreInv_convert d h hc
  | command _ hk _ _ hcmd => exact hcmd.inv h hk
  | completion c _ hk _ hd hcpl => exact hcpl.inv h hk hd
  | emit _ he => exact he.inv h
  | finish _ hf => exact hf.inv h
  | reset => exact afterReset_inv ..

theorem stateAfter_inv {s : State} (m : Move) (h : CoreInv s) : CoreInv (stateAfter m s) :=
  (stateAfter_effect m s).inv h

/-- Which moves stand next is no part of the invariants. -/
theorem takeMove_inv {s : State} (h : CoreInv s) : CoreInv s.takeMove := by
  unfold State.takeMove
  split
  · exact { h with }
  · exact { h with }

/-- Settles O39: the move a step takes has one of the effects of `MoveEffect`, and each keeps the invariants. -/
theorem stepKeepsInvariant : Obligations.StepKeepsInvariant :=
  fun _ _ h hstep => (move_effect hstep).inv (takeMove_inv h)

/-- Settles O40: the hardware's reset state is a state after a reset. -/
theorem resetSatisfiesInvariant : Obligations.ResetSatisfiesInvariant := afterReset_inv ..

/-! ## The counters' registers -/

/-- A register of `clog 2 (n + 1)` bits holds every number up to `n` (D34). -/
theorem lt_two_pow_clog {i n : Nat} (h : i ≤ n) : i < 2 ^ Nat.clog 2 (n + 1) :=
  (Nat.lt_succ_of_le h).trans_le (Nat.le_pow_clog (by decide) (n + 1))

/-- The longest job is TEST_SPEED or a drain (R36). -/
theorem JobKind.len_le (cfg : Config) (k : JobKind) : k.len cfg ≤ max 512 (2 * cfg.capacity) := by
  cases k <;> simp [JobKind.len]

/-- Settles O41: each counter, and where it can still grow its successor, is within what its width holds. -/
theorem countersFitTheirRegisters : Obligations.CountersFitTheirRegisters := by
  intro s h
  obtain ⟨k, hk⟩ := h.kind_bits
  refine ⟨lt_two_pow_clog h.cursor_le, lt_two_pow_clog ((h.index_le_len hk).trans (k.len_le _)), fun hm => ?_,
    fun he => ?_⟩
  · have hroom : s.cursor + 1 ≤ s.cfg.capacity := h.burst_room hm
    exact ⟨hroom, lt_two_pow_clog hroom⟩
  · obtain ⟨_, k', _, hidx⟩ := enables_emit.1 he
    exact lt_two_pow_clog (hidx.trans_le (k'.len_le _))

end Sys2Proof.Machine

/-! PROOFS. The statements about who writes what (10_state.md): the parameters, the mode, the cursor, the inbound
register and the channels' units. -/

namespace Sys2Proof.Machine

open Sys2Proof

@[simp] theorem setAll_cfg (st : UnitState) (s : State) : (setAll st s).cfg = s.cfg := rfl
@[simp] theorem setAll_mode (st : UnitState) (s : State) : (setAll st s).mode = s.mode := rfl
@[simp] theorem setAll_cursor (st : UnitState) (s : State) : (setAll st s).cursor = s.cursor := rfl
@[simp] theorem setAll_rxFull (st : UnitState) (s : State) : (setAll st s).rxFull = s.rxFull := rfl
@[simp] theorem setAll_rxByte (st : UnitState) (s : State) : (setAll st s).rxByte = s.rxByte := rfl
@[simp] theorem appended_cfg (c : Chan) (d : Sample) (s : State) : (appended c d s).cfg = s.cfg := rfl
@[simp] theorem appended_mode (c : Chan) (d : Sample) (s : State) : (appended c d s).mode = s.mode := rfl
@[simp] theorem appended_cursor (c : Chan) (d : Sample) (s : State) : (appended c d s).cursor = s.cursor + 1 := rfl
@[simp] theorem appended_rxFull (c : Chan) (d : Sample) (s : State) : (appended c d s).rxFull = s.rxFull := rfl
@[simp] theorem appended_rxByte (c : Chan) (d : Sample) (s : State) : (appended c d s).rxByte = s.rxByte := rfl

/-! ## The parameters -/

theorem CommandEffect.cfg {b : Byte} {s t : State} (h : CommandEffect b s t) : t.cfg = s.cfg := by
  cases h <;> simp

theorem CompletionEffect.cfg {c : Chan} {d : Sample} {s t : State} (h : CompletionEffect c d s t) :
    t.cfg = s.cfg := by
  cases h <;> simp

theorem FinishEffect.cfg {s t : State} (h : FinishEffect s t) : t.cfg = s.cfg := by
  cases h <;> simp

/-- No move writes a parameter (R45). -/
theorem MoveEffect.cfg {s t : State} {m : Move} (h : MoveEffect s m t) : t.cfg = s.cfg := by
  cases h with
  | same | rxArrive | reset => rfl
  | convert => exact setCh_cfg ..
  | command _ _ _ _ hc => exact hc.cfg
  | completion _ _ _ _ _ hc => exact hc.cfg
  | emit _ he => rw [he.frame]
  | finish _ hf => exact hf.cfg

theorem stateAfter_cfg (m : Move) (s : State) : (stateAfter m s).cfg = s.cfg := (stateAfter_effect m s).cfg

/-- Settles O50: neither taking a move nor the move's effect writes a parameter. -/
theorem parametersAreConstant : Obligations.ParametersAreConstant :=
  fun s _ hstep => (move_effect hstep).cfg.trans (takeMove_cfg s)

/-! ## The mode -/

/-- A command writes the mode only if it is one of the three that do, and to its own (R174, R175, R178). -/
theorem CommandEffect.mode {b : Byte} {s t : State} (h : CommandEffect b s t) (hne : t.mode ≠ s.mode) :
    b = 0x33#8 ∧ t.mode = 0b01#2 ∨ b = 0x34#8 ∧ t.mode = 0b00#2 ∨ b = 0x37#8 ∧ t.mode = 0b10#2 := by
  cases h with
  | plain => exact absurd rfl hne
  | stream hb => exact .inl ⟨hb, rfl⟩
  | stop hb => exact .inr (.inl ⟨hb, rfl⟩)
  | burst hb => exact .inr (.inr ⟨hb, rfl⟩)

/-- Of the completions, only the one that fills the buffer writes the mode (R126). -/
theorem CompletionEffect.mode {c : Chan} {d : Sample} {s t : State} (h : CompletionEffect c d s t)
    (hne : t.mode ≠ s.mode) : s.mode = 0b10#2 ∧ s.cursor + 1 = s.cfg.capacity ∧ t.mode = 0b00#2 := by
  cases h with
  | fill hm hlast => exact ⟨hm, hlast, rfl⟩
  | idle | cont | store | overrun | disabled | badMode => exact absurd (by simp) hne

theorem FinishEffect.mode {s t : State} (h : FinishEffect s t) : t.mode = s.mode := by
  cases h <;> simp

/-- Settles O43: of the effects a move can have, only a command's, a completion's and reset's reach the mode. -/
theorem modeChangesOnlyBy : Obligations.ModeChangesOnlyBy := by
  intro s m hne
  have heff := stateAfter_effect m s
  generalize stateAfter m s = t at heff hne ⊢
  cases heff with
  | same | rxArrive => exact absurd rfl hne
  | convert => exact absurd (setCh_mode ..) hne
  | command _ hk hf hr hc => exact .inl ⟨rfl, hk, hf, hr, hc.mode hne⟩
  | completion c _ _ _ hd hc => exact .inr (.inl ⟨c, rfl, hd, hc.mode hne⟩)
  | emit _ he => exact absurd (by rw [he.frame]) hne
  | finish _ hf => exact absurd hf.mode hne
  | reset => exact .inr (.inr rfl)

/-! ## The cursor -/

/-- Of the commands, only BURST writes the cursor (R140, R178). -/
theorem CommandEffect.cursor {b : Byte} {s t : State} (h : CommandEffect b s t) (hne : t.cursor ≠ s.cursor) :
    b = 0x37#8 ∧ t.cursor = 0 := by
  cases h with
  | plain | stream | stop => exact absurd rfl hne
  | burst hb => exact ⟨hb, rfl⟩

/-- Of the completions, only those that append write the cursor: in Burst, below `N` (R141). -/
theorem CompletionEffect.cursor {c : Chan} {d : Sample} {s t : State} (h : CompletionEffect c d s t)
    (hne : t.cursor ≠ s.cursor) : s.mode = 0b10#2 ∧ s.cursor < s.cfg.capacity ∧ t.cursor = s.cursor + 1 := by
  cases h with
  | idle | cont | overrun | badMode => exact absurd (by simp) hne
  | store hm hroom | disabled hm hroom => exact ⟨hm, by omega, by simp⟩
  | fill hm hlast => exact ⟨hm, by omega, by simp⟩

theorem FinishEffect.cursor {s t : State} (h : FinishEffect s t) : t.cursor = s.cursor := by
  cases h <;> simp

/-- Settles O44: of the effects a move can have, only a command's, a completion's and reset's reach the cursor. -/
theorem cursorChangesOnlyBy : Obligations.CursorChangesOnlyBy := by
  intro s m hne
  have heff := stateAfter_effect m s
  generalize stateAfter m s = t at heff hne ⊢
  cases heff with
  | same | rxArrive => exact absurd rfl hne
  | convert => exact absurd (setCh_cursor ..) hne
  | command _ _ _ _ hc => exact .inl ⟨rfl, hc.cursor hne⟩
  | completion c _ _ _ _ hc => exact .inr (.inl ⟨c, rfl, hc.cursor hne⟩)
  | emit _ he => exact absurd (by rw [he.frame]) hne
  | finish _ hf => exact absurd hf.cursor hne
  | reset => exact .inr (.inr rfl)

/-! ## The inbound register -/

/-- A command's Dispatch leaves its byte held (R171). -/
theorem CommandEffect.inbound {b : Byte} {s t : State} (h : CommandEffect b s t) :
    t.rxByte = s.rxByte ∧ t.rxFull = s.rxFull := by
  cases h <;> simp

theorem CompletionEffect.inbound {c : Chan} {d : Sample} {s t : State} (h : CompletionEffect c d s t) :
    t.rxByte = s.rxByte ∧ t.rxFull = s.rxFull := by
  cases h <;> simp

/-- The command class by its encodings (R36). -/
theorem JobKind.bits_of_isCommand {k : JobKind} (h : k.isCommand = true) :
    k.bits = 0b001#3 ∨ k.bits = 0b011#3 ∨ k.bits = 0b100#3 := by
  cases k with
  | cmd0 | speed | vcc => decide
  | noJob | cframe | drain => cases h

/-- The end of a job keeps the inbound register, or it is a command's and clears it (R180). -/
theorem FinishEffect.inbound {s t : State} (h : FinishEffect s t) :
    (t.rxByte = s.rxByte ∧ t.rxFull = s.rxFull) ∨
      ((s.seqKind = 0b001#3 ∨ s.seqKind = 0b011#3 ∨ s.seqKind = 0b100#3) ∧
        t.rxByte = 0x00#8 ∧ t.rxFull = false) := by
  cases h with
  | command k _ hk _ hc => exact .inr ⟨hk ▸ JobKind.bits_of_isCommand hc, rfl, rfl⟩
  | same | drain | frameIdle | disabled | badMode => exact .inl ⟨rfl, rfl⟩
  | frameRearm => exact .inl ⟨by simp, by simp⟩

/-- Settles O45: of the effects a move can have, only an arrival's, a command's end and reset's reach the inbound
register. -/
theorem inboundChangesOnlyBy : Obligations.InboundChangesOnlyBy := by
  intro s m hne
  have changed {t : State} (hne : t.rxByte ≠ s.rxByte ∨ t.rxFull ≠ s.rxFull) :
      ¬ (t.rxByte = s.rxByte ∧ t.rxFull = s.rxFull) := not_and_or.2 hne
  have heff := stateAfter_effect m s
  generalize stateAfter m s = t at heff hne ⊢
  cases heff with
  | same => exact absurd ⟨rfl, rfl⟩ (changed hne)
  | rxArrive b => exact .inl ⟨b, rfl, rfl, rfl⟩
  | convert => exact absurd ⟨setCh_rxByte .., setCh_rxFull ..⟩ (changed hne)
  | command _ _ _ _ hc => exact absurd hc.inbound (changed hne)
  | completion _ _ _ _ _ hc => exact absurd hc.inbound (changed hne)
  | emit _ he => exact absurd (by rw [he.frame]; exact ⟨rfl, rfl⟩) (changed hne)
  | finish _ hf => exact .inr (.inl ⟨rfl, hf.inbound.resolve_left (changed hne)⟩)
  | reset => exact .inr (.inr rfl)

/-! ## The channels' units -/

/-- No request to a unit writes its reading (R31). -/
@[simp] theorem setSt_data (s : State) (c c' : Chan) (st : UnitState) :
    ((s.setSt c st).ch c').data = (s.ch c').data := by
  rw [setSt_ch]
  split
  · subst c'
    rfl
  · rfl

@[simp] theorem setAll_data (s : State) (c : Chan) (st : UnitState) :
    ((setAll st s).ch c).data = (s.ch c).data := by
  cases c with
  | A => rfl
  | B => cases hdual : s.cfg.dual <;> simp [setAll, hdual]

/-- A command leaves the units, or requests one state of every enabled one: STREAM and BURST arm, STOP disarms
(R174, R175, R178). -/
theorem CommandEffect.units {b : Byte} {s t : State} (h : CommandEffect b s t) :
    (∀ c, t.ch c = s.ch c) ∨ ∃ st, (∀ c, t.ch c = (setAll st s).ch c) ∧
      (st = .conv ∧ (b = 0x33#8 ∨ b = 0x37#8) ∨ st = .off ∧ b = 0x34#8) := by
  cases h with
  | plain => exact .inl (ch_congr rfl rfl)
  | stream hb => exact .inr ⟨.conv, ch_congr rfl rfl, .inl ⟨rfl, .inl hb⟩⟩
  | stop hb => exact .inr ⟨.off, ch_congr rfl rfl, .inr ⟨rfl, hb⟩⟩
  | burst hb => exact .inr ⟨.conv, ch_congr rfl rfl, .inl ⟨rfl, .inr hb⟩⟩

/-- A completion turns its own unit off, and in Burst arms it again where it is enabled (R114, R125). -/
theorem CompletionEffect.units {c : Chan} {d : Sample} {s t : State} (h : CompletionEffect c d s t) :
    ∃ st, (∀ c', t.ch c' = (s.setSt c st).ch c') ∧
      (st = .off ∨ st = .conv ∧ s.mode = 0b10#2 ∧ c ∈ s.cfg.enabled) := by
  have happ (st : UnitState) (c' : Chan) : ((appended c d s).setSt c st).ch c' = (s.setSt c st).ch c' := by
    rw [setSt_ch, setSt_ch, appended_ch, appended_ch]
  cases h with
  | idle | cont | overrun | badMode => exact ⟨.off, ch_congr rfl rfl, .inl rfl⟩
  | store hm _ hc => exact ⟨.conv, happ .conv, .inr ⟨rfl, hm, hc⟩⟩
  | fill | disabled => exact ⟨.off, fun c' => (ch_congr rfl rfl c').trans (happ .off c'), .inl rfl⟩

/-- The end of a job leaves the units, or it is a frame's and arms its channel (R124). -/
theorem FinishEffect.units {s t : State} (h : FinishEffect s t) :
    (∀ c, t.ch c = s.ch c) ∨ s.seqKind = JobKind.bits .cframe ∧ s.seqChan ∈ s.cfg.enabled ∧
      ∀ c, t.ch c = (s.setSt s.seqChan .conv).ch c := by
  cases h with
  | same | command | drain | frameIdle | disabled | badMode => exact .inl (ch_congr rfl rfl)
  | frameRearm _ hk _ _ hc => exact .inr ⟨hk, hc, ch_congr rfl rfl⟩

/-- A unit that a single request changes is the requested one, and has the requested state. -/
theorem eq_of_setSt_ne {s t : State} {c c' : Chan} {st : UnitState} (ht : t.ch c' = (s.setSt c st).ch c')
    (hne : (t.ch c').st ≠ (s.ch c').st) : c' = c ∧ (t.ch c').st = st := by
  rw [setSt_ch] at ht
  split at ht
  · exact ⟨‹_›, congrArg ChanUnit.st ht⟩
  · exact absurd (congrArg ChanUnit.st ht) hne

/-- A unit that a request to all changes is enabled, and has the requested state. -/
theorem enabled_of_setAll_ne {s t : State} {c : Chan} {st : UnitState} (ht : t.ch c = (setAll st s).ch c)
    (hne : (t.ch c).st ≠ (s.ch c).st) : c ∈ s.cfg.enabled ∧ (t.ch c).st = st := by
  by_cases hc : c ∈ s.cfg.enabled
  · exact ⟨hc, by rw [ht, setAll_st_enabled st hc]⟩
  · exact absurd (by rw [ht, setAll_ch_disabled st hc]) hne

/-- Settles O46: what each effect requests of the units, at the one that changes. -/
theorem channelStateChangesOnlyBy : Obligations.ChannelStateChangesOnlyBy := by
  intro s m c hne
  have heff := stateAfter_effect m s
  generalize stateAfter m s = t at heff hne ⊢
  cases heff with
  | same => exact absurd rfl hne
  | rxArrive => exact absurd (congrArg _ (ch_congr rfl rfl c)) hne
  | convert c' d hconv =>
    by_cases hcc : c = c'
    · subst hcc
      exact .inr (.inr (.inl ⟨by rw [setCh_ch_same], hconv, d, rfl⟩))
    · exact absurd (by rw [setCh_ch_other s _ hcc]) hne
  | command _ _ _ _ hcmd =>
    rcases hcmd.units with hsame | ⟨st, hall, hreq⟩
    · exact absurd (by rw [hsame]) hne
    obtain ⟨hc, hst⟩ := enabled_of_setAll_ne (hall c) hne
    rcases hreq with ⟨rfl, hb⟩ | ⟨rfl, hb⟩
    · exact .inl ⟨hst, hc, .inl ⟨rfl, hb⟩⟩
    · exact .inr (.inl ⟨hst, .inl ⟨rfl, hb, hc⟩⟩)
  | completion c' _ _ _ hd hcpl =>
    obtain ⟨st, hch, hreq⟩ := hcpl.units
    obtain ⟨rfl, hst⟩ := eq_of_setSt_ne (hch c) hne
    rcases hreq with rfl | ⟨rfl, hm, hc⟩
    · exact .inr (.inl ⟨hst, .inr ⟨rfl, hd⟩⟩)
    · exact .inl ⟨hst, hc, .inr (.inr ⟨rfl, hm⟩)⟩
  | emit _ he => exact absurd (by rw [he.frame]; exact congrArg _ (ch_congr rfl rfl c)) hne
  | finish _ hf =>
    rcases hf.units with hsame | ⟨hk, hc, hch⟩
    · exact absurd (by rw [hsame]) hne
    obtain ⟨rfl, hst⟩ := eq_of_setSt_ne (hch c) hne
    exact .inl ⟨hst, hc, .inr (.inl ⟨rfl, hk, rfl⟩)⟩
  | reset => exact .inr (.inr (.inr rfl))

/-- Settles O47: no request to the units writes a reading, so only a conversion and reset are left. -/
theorem readingChangesOnlyBy : Obligations.ReadingChangesOnlyBy := by
  intro s m c hne
  have heff := stateAfter_effect m s
  generalize stateAfter m s = t at heff hne ⊢
  cases heff with
  | same => exact absurd rfl hne
  | rxArrive => exact absurd (congrArg _ (ch_congr rfl rfl c)) hne
  | convert c' d hconv =>
    by_cases hcc : c = c'
    · subst hcc
      exact .inl ⟨d, rfl, hconv, by rw [setCh_ch_same]⟩
    · exact absurd (by rw [setCh_ch_other s _ hcc]) hne
  | command _ _ _ _ hcmd =>
    rcases hcmd.units with hsame | ⟨st, hall, _⟩
    · exact absurd (by rw [hsame]) hne
    · exact absurd (by rw [hall, setAll_data]) hne
  | completion c' _ _ _ _ hcpl =>
    obtain ⟨st, hch, _⟩ := hcpl.units
    exact absurd (by rw [hch, setSt_data]) hne
  | emit _ he => exact absurd (by rw [he.frame]; exact congrArg _ (ch_congr rfl rfl c)) hne
  | finish _ hf =>
    rcases hf.units with hsame | ⟨_, _, hch⟩
    · exact absurd (by rw [hsame]) hne
    · exact absurd (by rw [hch, setSt_data]) hne
  | reset => exact .inr rfl

end Sys2Proof.Machine

/-! PROOFS. The statements about single operations and short runs: the buffer's reads and writes (20_memory.md),
where faults are raised (60_exceptions.md), the bytes of a job (43_frame_encoder.md), a continuous sample's whole
job, and which received bytes are kept (70_reset_and_hazards.md). -/

namespace Sys2Proof.Machine

open Sys2Proof

/-! ## The buffer -/

/-- Settles O42: below `N` a write is a write of the storage, and at `N` or above both operations raise. -/
theorem bufferReadAfterWrite : Obligations.BufferReadAfterWrite := by
  intro s i v
  refine ⟨fun hi => ?_, fun hi => ⟨memWrite_overrun v hi, memRead_overrun hi⟩⟩
  have hread {j : Nat} (hj : j < s.cfg.capacity) :
      memRead j { s with buf := Memory.write s.buf i v } =
        .ok (if j = i then v else s.bufWord j) { s with buf := Memory.write s.buf i v } := by
    rw [← bufWord_write]
    exact memRead_ok (s := { s with buf := Memory.write s.buf i v }) hj
  refine ⟨_, memWrite_ok v hi, rfl, ?_, fun j hj hne => ?_, Memory.wf_write _ _ _⟩
  · rw [hread hi, if_pos rfl]
  · rw [hread hj, if_neg hne]

/-! ## Where faults are raised -/

/-- The reserved mode raises BAD_MODE after onComplete has turned the unit off (R25, R121). -/
theorem exec_cpl_badMode {s : State} (c : Chan) (d : Sample) (hm : s.mode = 0b11#2) :
    exec (Instr.cpl c d) s = .next { s.setSt c .off with fault := some .badMode } := by
  refine exec_cpl_of_effect fun h => ?_
  cases h with
  | badMode => rfl
  | idle hm' | cont hm' | store hm' | fill hm' | overrun hm' | disabled hm' => simp [hm] at hm'

/-- A full buffer raises OVERRUN (R141). -/
theorem exec_cpl_overrun {s : State} (c : Chan) (d : Sample) (hm : s.mode = 0b10#2)
    (hfull : s.cfg.capacity ≤ s.cursor) :
    exec (Instr.cpl c d) s = .next { s.setSt c .off with fault := some .overrun } := by
  refine exec_cpl_of_effect fun h => ?_
  cases h with
  | overrun => rfl
  | idle hm' | cont hm' | badMode hm' => simp [hm] at hm'
  | store _ hroom => omega
  | fill _ hlast => omega
  | disabled _ hroom => omega

/-- A channel outside `E` cannot be armed again (R111); its word has been appended. -/
theorem exec_cpl_disabled {s : State} {c : Chan} (d : Sample) (hm : s.mode = 0b10#2)
    (hroom : s.cursor + 1 < s.cfg.capacity) (hc : c ∉ s.cfg.enabled) :
    exec (Instr.cpl c d) s = .next { (appended c d s).setSt c .off with fault := some .disabledChannel } := by
  refine exec_cpl_of_effect fun h => ?_
  cases h with
  | disabled => rfl
  | idle hm' | cont hm' | badMode hm' => simp [hm] at hm'
  | store _ _ hc' => exact absurd hc' hc
  | fill _ hlast => omega
  | overrun _ hfull => omega

/-- Channel B is outside `E` where `DUAL` is false (R23). -/
theorem B_not_mem_enabled {cfg : Config} (h : cfg.dual = false) : Chan.B ∉ cfg.enabled := by
  simp [mem_enabled, h]

/-- Settles O20, by what a completion does in each of the three states. -/
theorem completionRaisesModelFaults : Obligations.CompletionRaisesModelFaults := by
  intro s d
  refine ⟨fun hm => ⟨exec_cpl_badMode .A d hm, exec_cpl_badMode .B d hm⟩,
    fun hm hfull => ⟨exec_cpl_overrun .A d hm hfull, exec_cpl_overrun .B d hm hfull⟩, fun hm hroom hdual => ?_⟩
  exact ⟨_, exec_cpl_disabled (c := .B) d hm hroom (B_not_mem_enabled hdual), rfl, rfl⟩

theorem finishFrame_badMode {s : State} (hm : s.mode = 0b11#2) :
    finishFrame s = .raised { s with fault := some .badMode } := by
  rw [finishFrame, modeOf_eq_none.2 hm, raise]

/-- A frame of a channel outside `E` cannot arm it again (R111, R124). -/
theorem finishFrame_disabled {s : State}
    (hm : s.mode = CaptureMode.bits .cont ∨ s.mode = CaptureMode.bits .burst) (hc : s.seqChan ∉ s.cfg.enabled) :
    finishFrame s = .raised { s with fault := some .disabledChannel } := by
  rcases hm with hm | hm <;> simp [finishFrame, hm, arm_disabled hc]

/-- Settles O25: Emit of a reserved kind, and the two ways a frame's Finish raises. -/
theorem engineRaisesModelFaults : Obligations.EngineRaisesModelFaults := by
  intro s hf
  refine ⟨fun hk => congrArg _ (emit_reserved hf (jobOf_eq_none.2 hk)), fun hk hi hm => ?_,
    fun hk hi hm hchan hdual => ?_⟩
  · rw [act_finish_cframe hf hk hi, finishFrame_badMode hm, Res.state_raised]
  · rw [act_finish_cframe hf hk hi, finishFrame_disabled hm (hchan ▸ B_not_mem_enabled hdual), Res.state_raised]

/-! ## The bytes of a job -/

theorem act_emit_sends {s : State} {k : JobKind} {b : Byte} (hf : s.fault = none) (hk : s.seqKind = k.bits)
    (hi : s.seqIdx < k.len s.cfg) (hb : jobByte k s.seqIdx s = some (.ok b s)) :
    act .emit s = .next { s with txlog := s.txlog ++ [b], seqIdx := s.seqIdx + 1 } :=
  congrArg _ (emit_sends hf (jobOf_eq_some.2 hk) hi hb)

/-- Settles O21: the byte of each sending kind (R156). -/
theorem emitSendsTheNextByte : Obligations.EmitSendsTheNextByte := by
  intro s hf
  refine ⟨fun hk hi => act_emit_sends (k := .cframe) hf hk hi rfl,
    fun hk hi => act_emit_sends (k := .speed) hf hk hi rfl,
    fun hk hi => act_emit_sends (k := .vcc) hf hk hi rfl,
    fun hk hi => act_emit_sends (k := .drain) hf hk hi ?_⟩
  have hroom : s.seqIdx / 2 < s.cfg.capacity := Nat.div_lt_of_lt_mul hi
  rw [jobByte, memRead_ok hroom]
  rfl

/-! ## A continuous sample -/

/-- A pending completion's Dispatch leaves what its completion leaves (R121). -/
theorem stateAfter_dispatch_completion {s t : State} {c : Chan} (hk : s.seqKind = JobKind.bits .noJob)
    (hf : s.fault = none) (hd : (s.ch c).st = .done) (h : exec (Instr.cpl c (s.ch c).data) s = .next t) :
    stateAfter (.dispatch (.cpl c)) s = t :=
  stateAfter_of_act (h ▸ dispatch_completion (enables_completion.2 ⟨hk, hf, hd⟩))

/-- A frame's job in Continuous sends its two bytes and arms its channel (R124, R152). -/
theorem runMoves_frameJob {s : State} {c : Chan} (d : Sample) (hf : s.fault = none)
    (hm : s.mode = CaptureMode.bits .cont) (hc : c ∈ s.cfg.enabled) :
    runMoves (jobMoves 2) (startJob .cframe { s with seqSample := d, seqChan := c }) =
      endJob { s.setSt c .conv with
        seqSample := d, seqChan := c, txlog := s.txlog ++ (encCont c d).bytes } := by
  have hrun := runMoves_job (s := startJob .cframe { s with seqSample := d, seqChan := c }) (k := .cframe)
    (byte := (encCont c d).byte) hf rfl rfl fun _ _ => rfl
  have hrearm := finishFrame_rearms (c := c)
    (s := bytesSent (encCont c d).byte 2 (startJob .cframe { s with seqSample := d, seqChan := c }))
    (.inl hm) rfl hc
  refine hrun.trans ((congrArg Res.state hrearm).trans ?_)
  cases c with
  | A => rfl
  | B => rfl

/-- Settles O53: the Dispatch starts the frame's job, which sends the sample's bytes and arms the channel. -/
theorem continuousSampleIsSentAndRearmed : Obligations.ContinuousSampleIsSentAndRearmed := by
  intro s c hm hk hf hd hc
  rw [runMoves, stateAfter_dispatch_completion hk hf hd (exec_cpl_cont c _ hm)]
  have hjob := runMoves_frameJob (s := s.setSt c .off) (s.ch c).data ((setSt_fault ..).trans hf)
    ((setSt_mode ..).trans hm) ((setSt_cfg s c .off).symm ▸ hc)
  refine hjob.trans ?_
  cases c with
  | A => simp [endJob, State.setSt, State.setCh, JobKind.bits, hk]
  | B => simp [endJob, State.setSt, State.setCh, JobKind.bits, hk]

/-! ## Received bytes -/

/-- The end of a command's job clears the inbound register, and the end of any other keeps it (R180, R235, R236). -/
theorem finish_inbound {s : State} {k : JobKind} (hk : s.seqKind = k.bits) (he : s.enables .finish = true) :
    (finish s).rxByte = (if k.isCommand then 0x00#8 else s.rxByte) ∧
      (finish s).rxFull = (if k.isCommand then false else s.rxFull) := by
  have heff := finish_effect s
  generalize finish s = t at heff ⊢
  cases heff with
  | same hdis => exact absurd he (by rw [hdis]; decide)
  | command k' _ hk' _ hc =>
    obtain rfl : k = k' := JobKind.bits_inj.1 (hk.symm.trans hk')
    simp [hc]
  | drain _ hk' =>
    obtain rfl : k = .drain := JobKind.bits_inj.1 (hk.symm.trans hk')
    exact ⟨rfl, rfl⟩
  | frameIdle _ hk' | frameRearm _ hk' | disabled _ hk' | badMode _ hk' =>
    obtain rfl : k = .cframe := JobKind.bits_inj.1 (hk.symm.trans hk')
    simp [JobKind.isCommand]

theorem commandRunning_iff {s : State} :
    s.commandRunning = true ↔ ∃ k : JobKind, s.seqKind = k.bits ∧ k.isCommand = true := by
  cases hk : jobOf s.seqKind with
  | none => simp [State.commandRunning, hk, ← jobOf_eq_some]
  | some k => simp [State.commandRunning, hk, ← jobOf_eq_some]

/-- Settles O56: a Dispatch reads the byte held last, and whether a byte outlives a Finish is the job kind's. -/
theorem heldByteAcrossJobs : Obligations.HeldByteAcrossJobs := by
  intro s b hf
  refine ⟨fun hk => ?_, fun hcmd he => ?_, fun hk he => ?_⟩
  · exact dispatch_command (s := rxArrive b s) (enables_command.2 ⟨hk, hf, rfl⟩)
  · obtain ⟨k, hk, hc⟩ := commandRunning_iff.1 hcmd
    obtain ⟨hbyte, hfull⟩ := finish_inbound (s := rxArrive b s) hk he
    rw [if_pos hc] at hbyte hfull
    exact ⟨hfull, hbyte⟩
  · have hkeep : ∃ k : JobKind, s.seqKind = k.bits ∧ k.isCommand = false :=
      hk.elim (fun h => ⟨.cframe, h, rfl⟩) fun h => ⟨.drain, h, rfl⟩
    obtain ⟨k, hk, hc⟩ := hkeep
    obtain ⟨hbyte, hfull⟩ := finish_inbound (s := rxArrive b s) hk he
    rw [hc] at hbyte hfull
    exact ⟨hfull, hbyte⟩

end Sys2Proof.Machine

/-! PROOFS. The statement about a whole burst (R129): its completions are stored in the order of their Dispatches,
and the drain sends exactly their words. -/

namespace Sys2Proof.Machine

open Sys2Proof

/-! ## Completions stored in a burst -/

theorem sampleMoves_append (es fs : List (Chan × Sample)) :
    sampleMoves (es ++ fs) = sampleMoves es ++ sampleMoves fs := by
  induction es with
  | nil => rfl
  | cons e es ih => simp [sampleMoves, ih]

/-- Completing and dispatching a reading of a converting channel, with the engine idle, runs its completion from the
state with the reading latched (R113, R121). -/
theorem runMoves_sampleMoves_singleton {s t : State} {c : Chan} {d : Sample}
    (hk : s.seqKind = JobKind.bits .noJob) (hf : s.fault = none) (hc : (s.ch c).st = .conv)
    (h : exec (Instr.cpl c d) (s.setCh c { st := .done, data := d }) = .next t) :
    runMoves (sampleMoves [(c, d)]) s = t := by
  have hlatch : stateAfter (.convert c d) s = s.setCh c { st := .done, data := d } := convert_of_conv d hc
  have hdispatch := stateAfter_dispatch_completion (s := s.setCh c { st := .done, data := d }) (c := c) (t := t)
    ((setCh_seqKind ..).trans hk) ((setCh_fault ..).trans hf) (by rw [setCh_ch_same])
    (by rw [setCh_ch_same]; exact h)
  rw [sampleMoves, runMoves, hlatch, runMoves, hdispatch]
  rfl

/-- The words below a count, of a state whose word at that count is a tagged word and the others those of another
state. -/
theorem map_bufWord_range_succ {s t : State} {n : Nat} {w : TaggedWord}
    (h : ∀ i, t.bufWord i = if i = n then w else s.bufWord i) :
    (List.range (n + 1)).map t.bufWord = (List.range n).map s.bufWord ++ [w] := by
  rw [List.range_succ, List.map_append, List.map_singleton, h n, if_pos rfl]
  congr 1
  refine List.map_congr_left fun i hi => ?_
  rw [h i, if_neg (List.mem_range.1 hi).ne]

/-- The tagged words of some readings, in order (R151). -/
def taggedWords (es : List (Chan × Sample)) : List TaggedWord := es.map fun e => tagWord e.1 e.2

/-- State `t` has stored the readings `es` of a burst begun in state `s`, and waits for more. -/
structure BurstStored (s : State) (es : List (Chan × Sample)) (t : State) : Prop where
  cfg : t.cfg = s.cfg
  mode : t.mode = CaptureMode.bits .burst
  kind : t.seqKind = JobKind.bits .noJob
  fault : t.fault = none
  txlog : t.txlog = s.txlog
  cursor : t.cursor = es.length
  armed : ∀ c ∈ s.cfg.enabled, (t.ch c).st = .conv
  words : (List.range es.length).map t.bufWord = taggedWords es

/-- BURST and its Finish leave the burst with nothing stored (R178, R180). -/
theorem burstStored_nil {s : State} (hk : s.seqKind = JobKind.bits .noJob) (hf : s.fault = none)
    (hr : s.rxFull = true) (hb : s.rxByte = 0x37#8) : BurstStored s [] (runMoves [.dispatch .cmd, .finish] s) := by
  have hdispatch := stateAfter_dispatch_command hk hf hr (by rw [hb]; exact exec_burst s)
  have hfinish := runMoves_startJob_cmd0 (s := setAll .conv (setMode .burst (resetCursor s))) hf
  rw [runMoves, hdispatch, show [Move.finish] = jobMoves 0 from rfl, hfinish]
  exact {
    cfg := rfl
    mode := rfl
    kind := rfl
    fault := hf
    txlog := rfl
    cursor := rfl
    armed := fun c hc =>
      (congrArg _ (ch_congr rfl rfl c)).trans (setAll_st_enabled (s := setMode .burst (resetCursor s)) .conv hc)
    words := rfl }

/-- The words after one more append. -/
theorem BurstStored.words_append {s t u : State} {es : List (Chan × Sample)} {c : Chan} {d : Sample}
    (h : BurstStored s es t) (hbuf : u.buf = (appended c d t).buf) (hresets : u.resets = t.resets) :
    (List.range (es.length + 1)).map u.bufWord = taggedWords (es ++ [(c, d)]) := by
  have hword (i : Nat) : u.bufWord i = if i = es.length then tagWord c d else t.bufWord i := by
    rw [bufWord_congr hbuf hresets, appended_bufWord, h.cursor]
  rw [map_bufWord_range_succ hword, h.words, taggedWords, taggedWords, List.map_append, List.map_singleton]

/-- A completion that leaves room stores one more reading (R125). -/
theorem BurstStored.store {s t : State} {es : List (Chan × Sample)} {c : Chan} (d : Sample)
    (h : BurstStored s es t) (hc : c ∈ s.cfg.enabled) (hroom : es.length + 1 < s.cfg.capacity) :
    BurstStored s (es ++ [(c, d)]) (runMoves (sampleMoves [(c, d)]) t) := by
  have hstore : exec (Instr.cpl c d) (t.setCh c { st := .done, data := d }) =
      .next ((appended c d (t.setCh c { st := .done, data := d })).setSt c .conv) :=
    exec_cpl_store d ((setCh_mode ..).trans h.mode) (by rw [setCh_cursor, setCh_cfg, h.cursor, h.cfg]; exact hroom)
      (by rw [setCh_cfg, h.cfg]; exact hc)
  rw [runMoves_sampleMoves_singleton h.kind h.fault (h.armed c hc) hstore]
  exact {
    cfg := by simp [h.cfg]
    mode := by simp [h.mode]
    kind := by simpa [appended] using h.kind
    fault := by simpa [appended] using h.fault
    txlog := by simp [h.txlog]
    cursor := by simp [h.cursor]
    armed := fun c' hc' => by
      rw [setSt_ch]
      split
      · rfl
      · rw [appended_ch, setCh_ch_other _ _ ‹_›, h.armed c' hc']
    words := by
      rw [List.length_append, List.length_singleton]
      exact h.words_append (by simp [appended]) (by simp [appended]) }

/-- The completion that fills the buffer starts the drain of the stored words (R126). -/
theorem BurstStored.fill {s t : State} {es : List (Chan × Sample)} {c : Chan} (d : Sample)
    (h : BurstStored s es t) (hc : c ∈ s.cfg.enabled) (hlast : es.length + 1 = s.cfg.capacity) :
    ∃ u, runMoves (sampleMoves [(c, d)]) t = burstFull u ∧ u.cfg = s.cfg ∧ u.fault = none ∧ u.txlog = s.txlog ∧
      (List.range s.cfg.capacity).map u.bufWord = taggedWords (es ++ [(c, d)]) := by
  have hfill : exec (Instr.cpl c d) (t.setCh c { st := .done, data := d }) =
      .next (burstFull ((appended c d (t.setCh c { st := .done, data := d })).setSt c .off)) :=
    exec_cpl_fill c d ((setCh_mode ..).trans h.mode)
      (by rw [setCh_cursor, setCh_cfg, h.cursor, h.cfg]; exact hlast)
  refine ⟨_, runMoves_sampleMoves_singleton h.kind h.fault (h.armed c hc) hfill, by simp [h.cfg],
    by simpa [appended] using h.fault, by simp [h.txlog], ?_⟩
  rw [← hlast]
  exact h.words_append (by simp [appended]) (by simp [appended])

/-! ## The whole burst -/

/-- The moves of a burst's readings come after those of the command. -/
theorem runMoves_burst (ms : List Move) (s : State) :
    runMoves (.dispatch .cmd :: .finish :: ms) s = runMoves ms (runMoves [.dispatch .cmd, .finish] s) := rfl

/-- Fewer than `N` readings are all stored (R125, R127). -/
theorem burstStored_of_lt {s : State} {es : List (Chan × Sample)} (hk : s.seqKind = JobKind.bits .noJob)
    (hf : s.fault = none) (hr : s.rxFull = true) (hb : s.rxByte = 0x37#8) (hes : ∀ e ∈ es, e.1 ∈ s.cfg.enabled)
    (hlen : es.length < s.cfg.capacity) :
    BurstStored s es (runMoves (.dispatch .cmd :: .finish :: sampleMoves es) s) := by
  induction es using List.reverseRecOn with
  | nil => exact burstStored_nil hk hf hr hb
  | append_singleton es e ih =>
    rw [List.length_append, List.length_singleton] at hlen
    have hstored := ih (fun e he => hes e (List.mem_append_left _ he)) (by omega)
    rw [runMoves_burst, sampleMoves_append, runMoves_append]
    exact hstored.store e.2 (hes e (by simp)) hlen

/-- The `N`-th reading starts the drain, with the words of all of them in the buffer (R126, R129). -/
theorem burst_fills {s : State} {es : List (Chan × Sample)} (hk : s.seqKind = JobKind.bits .noJob)
    (hf : s.fault = none) (hr : s.rxFull = true) (hb : s.rxByte = 0x37#8) (hes : ∀ e ∈ es, e.1 ∈ s.cfg.enabled)
    (hlen : es.length = s.cfg.capacity) :
    ∃ u, runMoves (.dispatch .cmd :: .finish :: sampleMoves es) s = burstFull u ∧ u.cfg = s.cfg ∧
      u.fault = none ∧ u.txlog = s.txlog ∧ (List.range s.cfg.capacity).map u.bufWord = taggedWords es := by
  cases es using List.reverseRecOn with
  | nil => exact absurd hlen (Nat.succ_ne_zero _).symm
  | append_singleton es e =>
    rw [List.length_append, List.length_singleton] at hlen
    have hstored := burstStored_of_lt hk hf hr hb (fun e he => hes e (List.mem_append_left _ he)) (by omega)
    rw [runMoves_burst, sampleMoves_append, runMoves_append]
    exact hstored.fill e.2 (hes e (by simp)) hlen

/-- The bytes of a word in a drain's order (R153). -/
def wordBytes (w : TaggedWord) : List Byte := [w.extractLsb' 8 8, w.extractLsb' 0 8]

/-- The drain of a full buffer sends the bytes of its words and leaves the engine free in Idle (R144, R145). -/
theorem runMoves_drain_burstFull {u : State} (hf : u.fault = none) :
    runMoves (jobMoves (2 * u.cfg.capacity)) (burstFull u) =
      endJob { burstFull u with
        txlog := u.txlog ++ ((List.range u.cfg.capacity).map u.bufWord).flatMap wordBytes } := by
  rw [List.flatMap_map]
  exact drainSendsTheBufferInOrder (burstFull u) hf rfl rfl

/-- Settles O57: the readings before the `N`-th are stored one by one, by induction on their list, the `N`-th starts
the drain, and the drain sends the words stored. -/
theorem burstDrainsExactlyItsSamples : Obligations.BurstDrainsExactlyItsSamples := by
  intro s es hk hf hr hb hes
  refine ⟨fun hlen => ?_, fun hlen => ?_⟩
  · have hstored := burstStored_of_lt hk hf hr hb hes hlen
    exact ⟨hstored.txlog, hstored.mode, hstored.cursor, busy_eq_false_iff.2 hstored.kind⟩
  · obtain ⟨u, hrun, hcfg, hfault, hlog, hwords⟩ := burst_fills hk hf hr hb hes hlen
    have hsent : runMoves (.dispatch .cmd :: .finish :: (sampleMoves es ++ jobMoves (2 * s.cfg.capacity))) s =
        endJob { burstFull u with txlog := s.txlog ++ (taggedWords es).flatMap wordBytes } := by
      rw [runMoves_burst, runMoves_append, ← runMoves_burst, hrun, ← hcfg, runMoves_drain_burstFull hfault, hcfg,
        hlog, hwords]
    rw [hrun, hsent]
    refine ⟨hlog, rfl, ?_, rfl, rfl⟩
    exact congrArg (s.txlog ++ ·) (List.flatMap_map ..)

end Sys2Proof.Machine

/-! PROOFS. The statement about hidden state (R14, R147): two states that differ only in stale words, stale
readings and the count of resets stay so under every step. Each operation keeps `SameVisible`; a step is then a case
analysis of its move, which is enabled in both states or in neither. -/

namespace Sys2Proof

open Sys2Proof.Machine

/-! ## The operations -/

section

variable {s t : State}

theorem SameVisible.unit (h : SameVisible s t) (c : Chan) : SameUnit (s.ch c) (t.ch c) := by
  cases c with
  | A => exact h.chA
  | B => exact h.chB

/-- A unit with no completion pending shows its state only (R31). -/
theorem sameUnit_of_not_done {u v : ChanUnit} {st : UnitState} (hst : st ≠ .done) :
    SameUnit { u with st := st } { v with st := st } := ⟨rfl, fun h => absurd h hst⟩

theorem SameVisible.startJob (h : SameVisible s t) (k : JobKind) : SameVisible (startJob k s) (startJob k t) :=
  { h with seqKind := rfl, seqIdx := rfl }

theorem SameVisible.endJob (h : SameVisible s t) : SameVisible (endJob s) (endJob t) :=
  { h with seqKind := rfl, seqIdx := rfl }

theorem SameVisible.setMode (h : SameVisible s t) (m : CaptureMode) : SameVisible (setMode m s) (setMode m t) :=
  { h with mode := rfl }

theorem SameVisible.clearInbound (h : SameVisible s t) : SameVisible (clearInbound s) (clearInbound t) :=
  { h with rxByte := rfl, rxFull := rfl }

theorem SameVisible.rxArrive (h : SameVisible s t) (b : Byte) : SameVisible (rxArrive b s) (rxArrive b t) :=
  { h with rxByte := rfl, rxFull := rfl }

/-- With the cursor at 0 every word is stale. -/
theorem SameVisible.resetCursor (h : SameVisible s t) : SameVisible (resetCursor s) (resetCursor t) :=
  { h with cursor := rfl, words := fun i hi => absurd hi (Nat.not_lt_zero i) }

theorem SameVisible.holdSample (h : SameVisible s t) (c : Chan) (d : Sample) :
    SameVisible { s with seqSample := d, seqChan := c } { t with seqSample := d, seqChan := c } :=
  { h with seqSample := rfl, seqChan := rfl }

theorem SameVisible.sendByte (h : SameVisible s t) (b : Byte) :
    SameVisible { s with txlog := s.txlog ++ [b], seqIdx := s.seqIdx + 1 }
      { t with txlog := t.txlog ++ [b], seqIdx := t.seqIdx + 1 } :=
  { h with txlog := congrArg (· ++ [b]) h.txlog, seqIdx := congrArg (· + 1) h.seqIdx }

theorem SameVisible.setCh (h : SameVisible s t) (c : Chan) {u v : ChanUnit} (huv : SameUnit u v) :
    SameVisible (s.setCh c u) (t.setCh c v) := by
  cases c with
  | A => exact { h with chA := huv }
  | B => exact { h with chB := huv }

theorem SameVisible.setSt (h : SameVisible s t) (c : Chan) {st : UnitState} (hst : st ≠ .done) :
    SameVisible (s.setSt c st) (t.setSt c st) := h.setCh c (sameUnit_of_not_done hst)

theorem SameVisible.setAll (h : SameVisible s t) {st : UnitState} (hst : st ≠ .done) :
    SameVisible (setAll st s) (setAll st t) :=
  { h with
    chA := sameUnit_of_not_done hst
    chB := by
      rw [Machine.setAll, Machine.setAll, ← h.cfg]
      cases s.cfg.dual with
      | true => exact sameUnit_of_not_done hst
      | false => exact h.chB }

/-- An append writes the same word at the same index (R141). -/
theorem SameVisible.append (h : SameVisible s t) (c : Chan) (d : Sample) :
    SameVisible (appended c d s) (appended c d t) :=
  { h with
    cursor := congrArg (· + 1) h.cursor
    words := fun i hi => by
      rw [appended, appended, ← h.cursor, Memory.read_write, Memory.read_write]
      have hlt : i < s.cursor + 1 := hi
      split
      · rfl
      · exact h.words i (by omega) }

theorem SameVisible.burstFull (h : SameVisible s t) : SameVisible (burstFull s) (burstFull t) :=
  (h.setMode .idle).startJob .drain

theorem SameVisible.applyReset (h : SameVisible s t) : SameVisible (applyReset s) (applyReset t) where
  cfg := h.cfg
  mode := rfl
  cursor := rfl
  words _ _ := rfl
  chA := ⟨rfl, nofun⟩
  chB := ⟨rfl, nofun⟩
  rxFull := rfl
  rxByte := rfl
  seqKind := rfl
  seqIdx := rfl
  seqChan := rfl
  seqSample := rfl
  fault := rfl
  txlog := rfl
  script := h.script
  draws := h.draws

/-- The next move and the rest of the script are visible to the model. -/
theorem SameVisible.takeMove (h : SameVisible s t) :
    t.nextMove = s.nextMove ∧ SameVisible s.takeMove t.takeMove := by
  cases hs : s.script with
  | nil =>
    have ht : t.script = [] := h.script.symm.trans hs
    obtain ⟨hns, hts⟩ := takeMove_nil hs
    obtain ⟨hnt, htt⟩ := takeMove_nil ht
    rw [hns, hts, hnt, htt, h.draws]
    exact ⟨rfl, { h with draws := rfl }⟩
  | cons m ms =>
    have ht : t.script = m :: ms := h.script.symm.trans hs
    obtain ⟨hns, hts⟩ := takeMove_cons hs
    obtain ⟨hnt, htt⟩ := takeMove_cons ht
    rw [hns, hts, hnt, htt]
    exact ⟨rfl, { h with script := rfl }⟩

/-! ## Which moves are enabled -/

/-- No move's condition reads anything hidden. -/
theorem SameVisible.enables (h : SameVisible s t) (m : Move) : s.enables m = t.enables m := by
  cases m with
  | rxArrive | reset => rfl
  | convert c d => simp only [State.enables, (h.unit c).1]
  | dispatch e =>
    cases e with
    | cmd => rw [Bool.eq_iff_iff, enables_command, enables_command, h.seqKind, h.fault, h.rxFull]
    | cpl c => rw [Bool.eq_iff_iff, enables_completion, enables_completion, h.seqKind, h.fault, (h.unit c).1]
  | emit => rw [Bool.eq_iff_iff, enables_emit, enables_emit, h.fault, h.seqKind, h.seqIdx, h.cfg]
  | finish =>
    rw [Bool.eq_iff_iff, enables_finish, enables_finish, busy_iff, busy_iff, h.fault, h.seqKind, h.seqIdx, h.cfg]

/-! ## Dispatches -/

/-- The instruction's two answers are states that agree on everything visible. -/
def SameAnswer (i : Instr) (s t : State) : Prop :=
  ∃ s' t', exec i s = .next s' ∧ exec i t = .next t' ∧ SameVisible s' t'

/-- A command writes the same to both states. -/
theorem SameVisible.exec_command (h : SameVisible s t) (b : Byte) : SameAnswer (decodeCommand b) s t := by
  have plain (k : JobKind) : SameVisible (Machine.startJob k s) (Machine.startJob k t) := h.startJob k
  unfold decodeCommand
  split_ifs
  · exact ⟨_, _, rfl, rfl, plain .speed⟩
  · exact ⟨_, _, rfl, rfl, plain .cmd0⟩
  · exact ⟨_, _, exec_stream s, exec_stream t, ((h.setAll (by decide)).setMode .cont).startJob .cmd0⟩
  · exact ⟨_, _, exec_stop s, exec_stop t, ((h.setAll (by decide)).setMode .idle).startJob .cmd0⟩
  · exact ⟨_, _, rfl, rfl, plain .cmd0⟩
  · exact ⟨_, _, rfl, rfl, plain .vcc⟩
  · exact ⟨_, _, exec_burst s, exec_burst t,
      ((h.resetCursor.setMode .burst).setAll (by decide)).startJob .cmd0⟩
  · exact ⟨_, _, rfl, rfl, plain .cmd0⟩

/-- A pending completion has the same reading in both states, and is routed by the same mode. -/
theorem SameVisible.exec_completion (h : SameVisible s t) (hs : CoreInv s) {c : Chan}
    (hc : c ∈ s.cfg.enabled) (d : Sample) : SameAnswer (Instr.cpl c d) s t := by
  obtain ⟨m, hm⟩ := hs.mode_bits
  have hmt : t.mode = m.bits := h.mode ▸ hm
  have hct : c ∈ t.cfg.enabled := h.cfg ▸ hc
  cases m with
  | idle => exact ⟨_, _, exec_cpl_idle c d hm, exec_cpl_idle c d hmt, h.setSt c (by decide)⟩
  | cont =>
    exact ⟨_, _, exec_cpl_cont c d hm, exec_cpl_cont c d hmt,
      ((h.setSt c (by decide)).holdSample c d).startJob .cframe⟩
  | burst =>
    have hroom : s.cursor < s.cfg.capacity := hs.burst_room hm
    by_cases hlast : s.cursor + 1 = s.cfg.capacity
    · have hlastt : t.cursor + 1 = t.cfg.capacity := h.cursor ▸ h.cfg ▸ hlast
      exact ⟨_, _, exec_cpl_fill c d hm hlast, exec_cpl_fill c d hmt hlastt,
        ((h.append c d).setSt c (by decide)).burstFull⟩
    · have hleft : s.cursor + 1 < s.cfg.capacity := by omega
      have hleftt : t.cursor + 1 < t.cfg.capacity := h.cursor ▸ h.cfg ▸ hleft
      exact ⟨_, _, exec_cpl_store d hm hleft hc, exec_cpl_store d hmt hleftt hct,
        (h.append c d).setSt c (by decide)⟩

/-! ## Jobs -/

/-- Below the cursor every word has been written since reset, to both buffers (R147). -/
theorem SameVisible.bufWord (h : SameVisible s t) (hs : CoreInv s) {i : Nat} (hi : i < s.cursor) :
    t.bufWord i = s.bufWord i := by
  cases hread : Memory.read s.buf i with
  | none => exact absurd hread (hs.buf_written i hi)
  | some w => rw [State.bufWord, State.bufWord, ← h.words i hi, hread]

/-- A job's next byte is the same: a drain reads below the cursor only, which stands at `N` (R144). -/
theorem SameVisible.jobByte (h : SameVisible s t) (hs : CoreInv s) {k : JobKind} (hk : s.seqKind = k.bits)
    (hi : s.seqIdx < k.len s.cfg) :
    ∃ b, jobByte k s.seqIdx s = some (.ok b s) ∧ jobByte k t.seqIdx t = some (.ok b t) := by
  cases k with
  | noJob | cmd0 => exact absurd hi (Nat.not_lt_zero _)
  | cframe => exact ⟨_, rfl, by rw [← h.seqIdx, Machine.jobByte, ← h.seqChan, ← h.seqSample]⟩
  | speed => exact ⟨_, rfl, by rw [← h.seqIdx]; rfl⟩
  | vcc => exact ⟨_, rfl, by rw [← h.seqIdx, Machine.jobByte, ← h.cfg]⟩
  | drain =>
    have hroom : s.seqIdx / 2 < s.cfg.capacity := Nat.div_lt_of_lt_mul hi
    have hword := h.bufWord hs (i := s.seqIdx / 2) ((hs.drain_full hk).2 ▸ hroom)
    refine ⟨(encBurst (s.bufWord (s.seqIdx / 2))).byte (s.seqIdx % 2), ?_, ?_⟩
    · rw [Machine.jobByte, memRead_ok hroom, Res.bind_ok]
    · rw [← h.seqIdx, Machine.jobByte, memRead_ok (h.cfg ▸ hroom), Res.bind_ok, hword]

theorem SameVisible.emit (h : SameVisible s t) (hs : CoreInv s) (he : s.enables .emit = true) :
    SameVisible (emit s) (emit t) := by
  obtain ⟨hf, k, hk, hi⟩ := enables_emit.1 he
  obtain ⟨b, hbs, hbt⟩ := h.jobByte hs hk hi
  rw [emit_sends hf (jobOf_eq_some.2 hk) hi hbs, emit_sends (h.fault ▸ hf) (jobOf_eq_some.2 (h.seqKind ▸ hk))
    (h.seqIdx ▸ h.cfg ▸ hi) hbt]
  exact h.sendByte b

/-- The post-action of a job writes the same to both states; a frame's runs in Continuous only. -/
theorem SameVisible.finishJob (h : SameVisible s t) (hs : CoreInv s) {k : JobKind} (hk : s.seqKind = k.bits) :
    SameVisible (finishJob k s).state (finishJob k t).state := by
  cases k with
  | noJob => exact h
  | cmd0 | speed | vcc => exact h.clearInbound.endJob
  | drain => exact h.endJob
  | cframe =>
    have hm := hs.frame_mode hk
    have hc := (hs.frame_chan hk).1
    rw [Machine.finishJob, Machine.finishJob, finishFrame_rearms (.inl hm) rfl hc,
      finishFrame_rearms (.inl (h.mode ▸ hm)) h.seqChan.symm (h.cfg ▸ hc)]
    exact (h.setSt _ (by decide)).endJob

theorem SameVisible.finish (h : SameVisible s t) (hs : CoreInv s) (he : s.enables .finish = true) :
    SameVisible (finish s) (finish t) := by
  obtain ⟨hf, _, k, hk, hi⟩ := enables_finish.1 he
  rw [finish_runs hf (jobOf_eq_some.2 hk) hi, finish_runs (h.fault ▸ hf) (jobOf_eq_some.2 (h.seqKind ▸ hk))
    (h.seqIdx ▸ h.cfg ▸ hi)]
  exact h.finishJob hs hk

/-! ## The moves -/

/-- Dispatching the same event, enabled in both states, gives answers that agree. -/
theorem SameVisible.dispatch (h : SameVisible s t) (hs : CoreInv s) {e : Event}
    (he : s.enables (.dispatch e) = true) :
    SameVisible (stateAfter (.dispatch e) s) (stateAfter (.dispatch e) t) := by
  have het : t.enables (.dispatch e) = true := h.enables _ ▸ he
  cases e with
  | cmd =>
    obtain ⟨hk, hf, hr⟩ := enables_command.1 he
    obtain ⟨hkt, hft, hrt⟩ := enables_command.1 het
    obtain ⟨s', t', hs', ht', hvis⟩ := h.exec_command s.rxByte
    rw [stateAfter_dispatch_command hk hf hr hs', stateAfter_dispatch_command hkt hft hrt (h.rxByte ▸ ht')]
    exact hvis
  | cpl c =>
    obtain ⟨hk, hf, hdone⟩ := enables_completion.1 he
    obtain ⟨hkt, hft, hdonet⟩ := enables_completion.1 het
    have hc := hs.enabled_of_not_off (c := c) (by rw [hdone]; decide)
    obtain ⟨s', t', hs', ht', hvis⟩ := h.exec_completion hs hc (s.ch c).data
    rw [stateAfter_dispatch_completion hk hf hdone hs',
      stateAfter_dispatch_completion hkt hft hdonet ((h.unit c).2 hdone ▸ ht')]
    exact hvis

/-- A move that is not enabled leaves a state with the invariants as it was: no reserved kind stands there. -/
theorem CoreInv.stateAfter_disabled (hs : CoreInv s) {m : Move} (hm : s.enables m = false) : stateAfter m s = s :=
  stateAfter_of_act (disabledMovesChangeNothing s m hm fun _ => hs.kind_legal)

/-- Every move of every agent keeps the agreement. -/
theorem SameVisible.stateAfter (h : SameVisible s t) (hs : CoreInv s) (ht : CoreInv t) (m : Move) :
    SameVisible (stateAfter m s) (stateAfter m t) := by
  by_cases hm : s.enables m = true
  swap
  · have hms : s.enables m = false := by simpa using hm
    rw [hs.stateAfter_disabled hms, ht.stateAfter_disabled (h.enables m ▸ hms)]
    exact h
  cases m with
  | rxArrive b => exact h.rxArrive b
  | convert c d =>
    have hc := enables_convert.1 hm
    rw [stateAfter_convert, stateAfter_convert, convert_of_conv d hc, convert_of_conv d ((h.unit c).1 ▸ hc)]
    exact h.setCh c ⟨rfl, fun _ => rfl⟩
  | dispatch e => exact h.dispatch hs hm
  | emit => exact h.emit hs hm
  | finish => exact h.finish hs hm
  | reset => exact h.applyReset

/-- The observation is among what two such states agree on (R14). -/
theorem SameVisible.observe (h : SameVisible s t) : observe s = observe t := by
  rw [Sys2Proof.observe, Sys2Proof.observe, h.txlog, h.chA.1, h.chB.1]

end

/-- Settles O58: both steps take the same move, and every move keeps what the two states agree on. -/
theorem hiddenStateNeverShows : Obligations.HiddenStateNeverShows := by
  intro s t s' t' hs ht h hstep hstept
  obtain ⟨hnext, htake⟩ := h.takeMove
  rw [step, act_eq_stateAfter] at hstep hstept
  cases hstep
  cases hstept
  have hvis := htake.stateAfter (takeMove_inv hs) (takeMove_inv ht) s.nextMove
  rw [hnext]
  exact ⟨hvis, hvis.observe⟩

end Sys2Proof

/-! PROOFS. The statements about progress (R93, R207, R218): along a weakly fair sequence of moves every job ends,
and RUN reaches a state where no engine step is enabled. Both count what is left to do: the bytes of the running
job, and for RUN also the events that are pending. -/

namespace Sys2Proof.Machine

open Sys2Proof

/-! ## The bytes that are left -/

/-- The bytes the running job has not sent yet (R36, R37). -/
def remaining (s : State) : Nat :=
  match jobOf s.seqKind with
  | some k => k.len s.cfg - s.seqIdx
  | none => 0

theorem remaining_of_kind {s : State} {k : JobKind} (hk : s.seqKind = k.bits) :
    remaining s = k.len s.cfg - s.seqIdx := by
  rw [remaining, jobOf_eq_some.2 hk]

theorem remaining_congr {s t : State} (hkind : t.seqKind = s.seqKind) (hidx : t.seqIdx = s.seqIdx)
    (hcfg : t.cfg = s.cfg) : remaining t = remaining s := by
  rw [remaining, remaining, hkind, hidx, hcfg]

/-- While bytes are left, Emit is enabled (R157). -/
theorem enables_emit_of_remaining {s : State} (h : CoreInv s) (hpos : 0 < remaining s) :
    s.enables .emit = true := by
  obtain ⟨k, hk⟩ := h.kind_bits
  rw [remaining_of_kind hk] at hpos
  exact enables_emit.2 ⟨h.no_fault, k, hk, by omega⟩

/-- Once none is left, Finish is enabled. -/
theorem enables_finish_of_remaining {s : State} (h : CoreInv s) (hbusy : s.busy = true) (hzero : remaining s = 0) :
    s.enables .finish = true := by
  obtain ⟨k, hk⟩ := h.kind_bits
  rw [remaining_of_kind hk] at hzero
  have hidx := h.index_le_len hk
  exact enables_finish.2 ⟨h.no_fault, hbusy, k, hk, by omega⟩

/-- A byte sent is one byte less that is left. -/
theorem remaining_sent {s : State} {k : JobKind} (b : Byte) (hk : s.seqKind = k.bits) :
    remaining { s with txlog := s.txlog ++ [b], seqIdx := s.seqIdx + 1 } = remaining s - 1 := by
  rw [remaining_of_kind hk]
  exact remaining_of_kind (s := { s with txlog := s.txlog ++ [b], seqIdx := s.seqIdx + 1 }) hk

/-- An Emit that is enabled sends one of the bytes that are left. -/
theorem remaining_emit_lt {s : State} (he : s.enables .emit = true) : remaining (emit s) < remaining s := by
  have heff := emit_effect s
  generalize emit s = t at heff ⊢
  cases heff with
  | same hdis => exact absurd he (by rw [hdis]; decide)
  | sent k b _ hk _ hi =>
    rw [remaining_sent b hk, remaining_of_kind hk]
    omega
  | badSeq _ hk =>
    obtain ⟨_, k, hk', _⟩ := enables_emit.1 he
    exact absurd (jobOf_eq_none.2 hk) (by rw [hk', jobOf_bits]; exact Option.some_ne_none _)

/-- A Finish that is enabled frees the engine: with the invariants it raises nothing. -/
theorem finish_frees {s : State} (h : CoreInv s) (he : s.enables .finish = true) : (finish s).busy = false := by
  have heff := finish_effect s
  generalize finish s = t at heff ⊢
  cases heff with
  | same hdis => exact absurd he (by rw [hdis]; decide)
  | command | drain | frameIdle | frameRearm => rfl
  | disabled _ hk _ _ hc => exact absurd (h.frame_chan hk).1 hc
  | badMode _ _ _ hm => exact absurd hm h.mode_legal

/-- While a job goes on, no move adds to what it has left. -/
theorem MoveEffect.remaining_le {s t : State} {m : Move} (h : MoveEffect s m t) (hs : s.busy = true)
    (ht : t.busy = true) : remaining t ≤ remaining s := by
  cases h with
  | same | rxArrive => exact le_rfl
  | convert => exact (remaining_congr (setCh_seqKind ..) (setCh_seqIdx ..) (setCh_cfg ..)).le
  | command _ hk => exact absurd hk (busy_iff.1 hs)
  | completion _ _ hk => exact absurd hk (busy_iff.1 hs)
  | emit _ he =>
    cases he with
    | same | badSeq => exact le_rfl
    | sent k b _ hk =>
      rw [remaining_sent b hk]
      exact Nat.sub_le _ _
  | finish _ hf =>
    cases hf with
    | same | disabled | badMode => exact le_rfl
    | command | drain | frameIdle | frameRearm => cases ht
  | reset => cases ht

/-! ## Weak fairness -/

theorem traceOf_inv {moves : Nat → Move} {s : State} (h : CoreInv s) (k : Nat) : CoreInv (traceOf moves s k) := by
  induction k with
  | zero => exact h
  | succ k ih => exact stateAfter_inv _ ih

/-- Along a stretch of a trace on which the engine stays busy, what is left does not grow. -/
theorem remaining_traceOf_le {moves : Nat → Move} {s : State} {k : Nat}
    (hbusy : ∀ j, k ≤ j → (traceOf moves s j).busy = true) {i j : Nat} (hi : k ≤ i) (hij : i ≤ j) :
    remaining (traceOf moves s j) ≤ remaining (traceOf moves s i) := by
  induction j, hij using Nat.le_induction with
  | base => exact le_rfl
  | succ j hij ih =>
    exact ((stateAfter_effect _ _).remaining_le (hbusy j (by omega)) (hbusy (j + 1) (by omega))).trans ih

/-- A job with `n` bytes left ends: a byte goes and fewer are left, or none is left and its Finish comes (F1 of
R218). -/
theorem job_ends {moves : Nat → Move} {s : State} (h : CoreInv s) (hfair : WeaklyFair moves s) (n k : Nat)
    (hn : remaining (traceOf moves s k) = n) : ∃ j, k ≤ j ∧ (traceOf moves s j).busy = false := by
  induction n using Nat.strong_induction_on generalizing k with
  | _ n ih =>
  by_contra hnone
  have hbusy : ∀ j, k ≤ j → (traceOf moves s j).busy = true := by simpa using hnone
  by_cases hzero : ∃ i, k ≤ i ∧ remaining (traceOf moves s i) = 0
  · obtain ⟨i, hi, h0⟩ := hzero
    have hfinish : ∀ j, i ≤ j → (traceOf moves s j).enables .finish = true := fun j hj =>
      enables_finish_of_remaining (traceOf_inv h j) (hbusy j (hi.trans hj))
        (Nat.le_zero.1 (h0 ▸ remaining_traceOf_le hbusy hi hj))
    obtain ⟨j, hj, hmove⟩ := hfair.engine .finish rfl i hfinish
    have hidle : (traceOf moves s (j + 1)).busy = false := by
      rw [traceOf, hmove]
      exact finish_frees (traceOf_inv h j) (hfinish j hj)
    exact hnone ⟨j + 1, by omega, hidle⟩
  · have hemit : ∀ j, k ≤ j → (traceOf moves s j).enables .emit = true := fun j hj =>
      enables_emit_of_remaining (traceOf_inv h j) (Nat.pos_of_ne_zero fun h0 => hzero ⟨j, hj, h0⟩)
    obtain ⟨j, hj, hmove⟩ := hfair.engine .emit rfl k hemit
    have hfewer : remaining (traceOf moves s (j + 1)) < n := by
      rw [traceOf, hmove]
      exact (remaining_emit_lt (hemit j hj)).trans_le (hn ▸ remaining_traceOf_le hbusy le_rfl hj)
    obtain ⟨i, hi, hidle⟩ := ih _ hfewer (j + 1) rfl
    exact hnone ⟨i, by omega, hidle⟩

/-- Settles O59, by induction on the bytes that are left. -/
theorem jobsEndUnderWeakFairness : Obligations.JobsEndUnderWeakFairness :=
  fun _ _ h hfair k => job_ends h hfair _ k rfl

/-! ## The events that are pending -/

theorem pending_completion {s : State} {c : Chan} : s.pending (.cpl c) = true ↔ (s.ch c).st = .done := beq_iff_eq

theorem pending_command {s : State} :
    s.pending .cmd = true ↔ s.rxFull = true ∧ s.commandRunning = false := by
  simp [State.pending]

/-- A request to a unit makes no completion pending. -/
theorem pending_of_setSt {s t : State} {c c' : Chan} {st : UnitState} (ht : t.ch c' = (s.setSt c st).ch c')
    (hst : st ≠ .done) (hp : t.pending (.cpl c') = true) : c' ≠ c ∧ s.pending (.cpl c') = true := by
  rw [pending_completion, ht, setSt_ch] at hp
  split at hp
  · exact absurd hp hst
  · exact ⟨‹_›, pending_completion.2 hp⟩

/-- Nor does a request to all. -/
theorem pending_of_setAll {s t : State} {c : Chan} {st : UnitState} (ht : t.ch c = (setAll st s).ch c)
    (hst : st ≠ .done) (hp : t.pending (.cpl c) = true) : s.pending (.cpl c) = true := by
  rw [pending_completion, ht] at hp
  by_cases hc : c ∈ s.cfg.enabled
  · rw [setAll_st_enabled st hc] at hp
    exact absurd hp hst
  · rwa [setAll_ch_disabled st hc, ← pending_completion] at hp

/-- While a command's job runs, its byte is not pending (R201). -/
theorem not_pending_of_command {s : State} {k : JobKind} (hk : s.seqKind = k.bits) (hc : k.isCommand = true) :
    s.pending .cmd ≠ true := by
  rw [Ne, pending_command, commandRunning_iff.2 ⟨k, hk, hc⟩]
  exact fun h => Bool.noConfusion h.2

/-- While no command's job runs, a held byte is pending. -/
theorem pending_of_not_command {s : State} {k : JobKind} (hk : s.seqKind = k.bits) (hc : k.isCommand = false)
    (hr : s.rxFull = true) : s.pending .cmd = true := by
  refine pending_command.2 ⟨hr, ?_⟩
  rw [State.commandRunning, jobOf_eq_some.2 hk, ← hc]

/-- A command's Dispatch takes its byte off what is pending and makes nothing pending. -/
theorem CommandEffect.pending {b : Byte} {s t : State} (h : CommandEffect b s t) {e : Event}
    (hp : t.pending e = true) : e ≠ .cmd ∧ s.pending e = true := by
  have hjob : ∃ k : JobKind, t.seqKind = k.bits ∧ k.isCommand = true := by
    cases h with
    | plain k hk => exact ⟨k, rfl, hk.isCommand⟩
    | stream | stop | burst => exact ⟨.cmd0, rfl, rfl⟩
  cases e with
  | cmd =>
    obtain ⟨k, hk, hc⟩ := hjob
    exact absurd hp (not_pending_of_command hk hc)
  | cpl c =>
    refine ⟨nofun, ?_⟩
    rcases h.units with hsame | ⟨st, hall, hreq⟩
    · rwa [pending_completion, hsame, ← pending_completion] at hp
    · refine pending_of_setAll (hall c) ?_ hp
      rintro rfl
      rcases hreq with ⟨h0, _⟩ | ⟨h0, _⟩ <;> cases h0

/-- A completion's Dispatch takes it off what is pending and makes nothing pending. -/
theorem CompletionEffect.pending {c : Chan} {d : Sample} {s t : State} (h : CompletionEffect c d s t)
    (hk : s.seqKind = JobKind.bits .noJob) {e : Event} (hp : t.pending e = true) :
    e ≠ .cpl c ∧ s.pending e = true := by
  cases e with
  | cmd =>
    have hr : s.rxFull = true := h.inbound.2 ▸ (pending_command.1 hp).1
    exact ⟨nofun, pending_of_not_command hk rfl hr⟩
  | cpl c' =>
    obtain ⟨st, hch, hreq⟩ := h.units
    have hst : st ≠ .done := by
      rintro rfl
      rcases hreq with h0 | ⟨h0, _⟩ <;> cases h0
    obtain ⟨hne, hps⟩ := pending_of_setSt (hch c') hst hp
    exact ⟨fun h0 => hne (Event.cpl.inj h0), hps⟩

/-- The end of a job makes nothing pending: a command's clears the byte, and the others' jobs hold none back. -/
theorem FinishEffect.pending {s t : State} (h : FinishEffect s t) {e : Event} (hp : t.pending e = true) :
    s.pending e = true := by
  cases e with
  | cpl c =>
    rcases h.units with hsame | ⟨_, _, hch⟩
    · rwa [pending_completion, hsame, ← pending_completion] at hp
    · exact (pending_of_setSt (hch c) (by decide) hp).2
  | cmd =>
    have hr := (pending_command.1 hp).1
    cases h with
    | same | disabled | badMode => exact hp
    | command => cases hr
    | drain _ hk => exact pending_of_not_command hk rfl hr
    | frameIdle _ hk => exact pending_of_not_command hk rfl hr
    | frameRearm _ hk => exact pending_of_not_command hk rfl (by simpa using hr)

/-- An Emit makes nothing pending. -/
theorem EmitEffect.pending {s t : State} (h : EmitEffect s t) {e : Event} (hp : t.pending e = true) :
    s.pending e = true := by
  rw [h.frame] at hp
  cases e with
  | cmd => exact hp
  | cpl c => cases c <;> exact hp

/-! ## The steps that RUN has left -/

/-- How many events are pending. -/
def pendingCount (s : State) : Nat :=
  (s.pending .cmd).toNat + (s.pending (.cpl .A)).toNat + (s.pending (.cpl .B)).toNat

/-- Nothing new pending, no more pending. -/
theorem pendingCount_le {s t : State} (h : ∀ e, t.pending e = true → s.pending e = true) :
    pendingCount t ≤ pendingCount s := by
  have hle (e : Event) : (t.pending e).toNat ≤ (s.pending e).toNat := Bool.toNat_le_toNat (Bool.le_iff_imp.2 (h e))
  exact Nat.add_le_add (Nat.add_le_add (hle .cmd) (hle (.cpl .A))) (hle (.cpl .B))

/-- Nothing new pending and one event dispatched, fewer pending. -/
theorem pendingCount_lt {s t : State} {e : Event} (hs : s.pending e = true)
    (h : ∀ e', t.pending e' = true → e' ≠ e ∧ s.pending e' = true) : pendingCount t < pendingCount s := by
  have hle (e' : Event) : (t.pending e').toNat ≤ (s.pending e').toNat :=
    Bool.toNat_le_toNat (Bool.le_iff_imp.2 fun hp => (h e' hp).2)
  have ht : t.pending e = false := by
    by_contra hp
    exact (h e (by simpa using hp)).1 rfl
  have hcmd := hle .cmd
  have hA := hle (.cpl .A)
  have hB := hle (.cpl .B)
  have hlt : (t.pending e).toNat < (s.pending e).toNat := by simp [hs, ht]
  unfold pendingCount
  cases e with
  | cmd => omega
  | cpl c => cases c <;> omega

/-- The steps that the running job has left: an Emit for each byte, and its Finish. -/
def jobSteps (s : State) : Nat := if s.busy then remaining s + 1 else 0

/-- At most so many steps come with each pending event: its Dispatch, the bytes of the longest job and a Finish. -/
def eventSteps (cfg : Config) : Nat := max 512 (2 * cfg.capacity) + 2

/-- A bound on the engine steps that RUN has left. -/
def stepsLeft (s : State) : Nat := jobSteps s + pendingCount s * eventSteps s.cfg

theorem jobSteps_lt (s : State) : jobSteps s < eventSteps s.cfg := by
  have hlen : remaining s ≤ max 512 (2 * s.cfg.capacity) := by
    unfold remaining
    split
    · exact (Nat.sub_le _ _).trans (JobKind.len_le ..)
    · exact Nat.zero_le _
  unfold jobSteps eventSteps
  split <;> omega

/-- RUN's fuel is enough for the running job and three events (log 17). -/
theorem stepsLeft_le_runFuel (s : State) : stepsLeft s ≤ runFuel s.cfg := by
  have hjob := (jobSteps_lt s).le
  have hcount : pendingCount s ≤ 3 :=
    Nat.add_le_add (Nat.add_le_add (Bool.toNat_le _) (Bool.toNat_le _)) (Bool.toNat_le _)
  calc stepsLeft s
    _ ≤ eventSteps s.cfg + 3 * eventSteps s.cfg := Nat.add_le_add hjob (Nat.mul_le_mul_right _ hcount)
    _ = runFuel s.cfg := by unfold eventSteps runFuel; omega

/-- A step of the job leaves fewer steps, where it makes nothing pending. -/
theorem stepsLeft_lt_of_job {s t : State} (hcfg : t.cfg = s.cfg) (hjob : jobSteps t < jobSteps s)
    (hp : ∀ e, t.pending e = true → s.pending e = true) : stepsLeft t < stepsLeft s := by
  rw [stepsLeft, stepsLeft, hcfg]
  exact Nat.add_lt_add_of_lt_of_le hjob (Nat.mul_le_mul_right _ (pendingCount_le hp))

/-- A Dispatch leaves fewer steps: the job it starts is no longer than what its event counted for. -/
theorem stepsLeft_lt_of_dispatch {s t : State} {e : Event} (hcfg : t.cfg = s.cfg) (hs : s.pending e = true)
    (hp : ∀ e', t.pending e' = true → e' ≠ e ∧ s.pending e' = true) : stepsLeft t < stepsLeft s := by
  have hjob : jobSteps t < eventSteps s.cfg := hcfg ▸ jobSteps_lt t
  calc stepsLeft t
    _ = jobSteps t + pendingCount t * eventSteps s.cfg := by rw [stepsLeft, hcfg]
    _ < (pendingCount t + 1) * eventSteps s.cfg := by rw [Nat.succ_mul]; omega
    _ ≤ pendingCount s * eventSteps s.cfg := Nat.mul_le_mul_right _ (pendingCount_lt hs hp)
    _ ≤ stepsLeft s := Nat.le_add_left ..

theorem jobSteps_of_busy {s : State} (h : s.busy = true) : jobSteps s = remaining s + 1 := if_pos h

/-- Every engine step that is enabled leaves RUN fewer steps. -/
theorem stepsLeft_lt {s : State} {m : Move} (h : CoreInv s) (hm : m.isEngine = true) (he : s.enables m = true) :
    stepsLeft (stateAfter m s) < stepsLeft s := by
  have hcfg := stateAfter_cfg m s
  cases m with
  | rxArrive | convert | reset => cases hm
  | emit =>
    have heff := emit_effect s
    have hbusy : s.busy = true := by
      obtain ⟨_, k, hk, hi⟩ := enables_emit.1 he
      refine busy_iff.2 fun h0 => ?_
      obtain rfl : k = .noJob := JobKind.bits_inj.1 (hk.symm.trans h0)
      exact absurd hi (Nat.not_lt_zero _)
    have hbusy' : (emit s).busy = true := by rw [heff.frame]; exact hbusy
    refine stepsLeft_lt_of_job hcfg ?_ fun e => heff.pending
    rw [stateAfter_emit, jobSteps_of_busy hbusy, jobSteps_of_busy hbusy']
    exact Nat.succ_lt_succ (remaining_emit_lt he)
  | finish =>
    have hbusy := (enables_finish.1 he).2.1
    refine stepsLeft_lt_of_job hcfg ?_ fun e => (finish_effect s).pending
    rw [stateAfter_finish, jobSteps_of_busy hbusy, jobSteps, finish_frees h he]
    exact Nat.succ_pos _
  | dispatch e =>
    have hpend : s.pending e = true := (Bool.and_eq_true_iff.1 he).2
    refine stepsLeft_lt_of_dispatch hcfg hpend fun e' hp => ?_
    have heff := stateAfter_effect (.dispatch e) s
    generalize stateAfter (.dispatch e) s = t at heff hp
    cases heff with
    | same _ hdis => exact absurd he (by rw [hdis]; decide)
    | command _ _ _ _ hc => exact hc.pending hp
    | completion c _ hk _ _ hc => exact hc.pending hk hp

/-! ## RUN -/

/-- The step that RUN takes next is an engine step, and enabled (R93). -/
theorem nextEngineMove_eq_some {order : List Event} {s : State} {m : Move} (h : nextEngineMove order s = some m) :
    m.isEngine = true ∧ s.enables m = true := by
  unfold nextEngineMove at h
  split at h
  · cases h
    exact ⟨rfl, ‹_›⟩
  split at h
  · cases h
    exact ⟨rfl, ‹_›⟩
  split at h
  · cases h
    exact ⟨rfl, List.find?_some (p := fun e => s.enables (.dispatch e)) ‹_›⟩
  · cases h

/-- RUN finds a step where one is enabled: every event is among those it tries. -/
theorem nextEngineMove_eq_none {order : List Event} {s : State} (h : nextEngineMove order s = none) {m : Move}
    (hm : m.isEngine = true) : s.enables m = false := by
  unfold nextEngineMove at h
  split at h
  · cases h
  split at h
  · cases h
  split at h
  · cases h
  cases m with
  | rxArrive | convert | reset => cases hm
  | emit => simpa using ‹¬ s.enables .emit = true›
  | finish => simpa using ‹¬ s.enables .finish = true›
  | dispatch e =>
    have hnone := List.find?_eq_none.1 ‹_› e
    have hmem : e ∈ runOrder order := by
      rcases e with _ | c
      · simp [runOrder]
      · cases c <;> simp [runOrder]
    simpa using hnone hmem

theorem engineMoves_isEngine (fuel : Nat) (order : List Event) (s : State) :
    ∀ m ∈ engineMoves fuel order s, m.isEngine = true := by
  induction fuel generalizing s with
  | zero => exact fun m hm => nomatch hm
  | succ fuel ih =>
    intro m hm
    cases hnext : nextEngineMove order s with
    | none => simp [engineMoves, hnext] at hm
    | some m' =>
      rw [engineMoves, hnext] at hm
      rcases List.mem_cons.1 hm with rfl | hm
      · exact (nextEngineMove_eq_some hnext).1
      · exact ih _ m hm

/-- With fuel for the steps that are left, RUN stops only where no engine step is enabled. -/
theorem runMoves_engineMoves_stops {fuel : Nat} {order : List Event} {s : State} (h : CoreInv s)
    (hfuel : stepsLeft s ≤ fuel) {m : Move} (hm : m.isEngine = true) :
    (runMoves (engineMoves fuel order s) s).enables m = false := by
  induction fuel generalizing s with
  | zero =>
    by_contra he
    have hlt := stepsLeft_lt h hm (Bool.of_not_eq_false he)
    exact absurd (hlt.trans_le hfuel) (Nat.not_lt_zero _)
  | succ fuel ih =>
    cases hnext : nextEngineMove order s with
    | none =>
      rw [engineMoves, hnext]
      exact nextEngineMove_eq_none hnext hm
    | some m' =>
      obtain ⟨hm', he'⟩ := nextEngineMove_eq_some hnext
      rw [engineMoves, hnext]
      exact ih (stateAfter_inv m' h) (Nat.le_of_lt_succ ((stepsLeft_lt h hm' he').trans_le hfuel))

/-- Settles O60, by induction on RUN's fuel: each step it takes leaves fewer, and the fuel is enough for all. -/
theorem runTakesEngineStepsToTheEnd : Obligations.RunTakesEngineStepsToTheEnd :=
  fun order s =>
    ⟨engineMoves_isEngine _ order s, fun h _ => runMoves_engineMoves_stops h (stepsLeft_le_runFuel s)⟩

end Sys2Proof.Machine
